-- ==== Sys2Proof/Word.lean ====
section
/-! DEFINITION. The word types of the block (00_scope.md R8, R9): every value is unsigned and
arithmetic on a `uN` wraps modulo 2^N, which is what `BitVec N` does. -/

namespace Sys2Proof

/-- A `u8` (R9). -/
abbrev Byte := BitVec 8

/-- A `u16` address of CPU space or PPU space (20_memory.md R60). -/
abbrev Addr := BitVec 16

/-- A `u15`: the current and the temporary VRAM address `ppu.v`, `ppu.t` (10_state.md R29, R30). -/
abbrev VramAddr := BitVec 15

/-- A `u5`: an MMC1 register or the serial shift register (10_state.md R40 to R43). -/
abbrev Reg5 := BitVec 5

/-- One 32-bit transaction word (30_encoding.md R100). -/
abbrev TransactionWord := BitVec 32

end Sys2Proof
end

