-- ==== Sys2Proof/Config.lean ====
section
/-! DEFINITION. The implementation parameters of 00_scope.md R7: the fixed sizes, the two OPEN
policies as inductive types (State holds which one a machine has), and the free values. -/

namespace Sys2Proof

/-- `SCROLL_UPDATE_GUARD` (R7, 42_timing.md R183). -/
inductive ScrollGuard where
  /-- Rows 2 to 4 of the tick table fire on every scanline (the default). -/
  | literal
  /-- Rows 2 to 4 fire only with rendering enabled, on scanlines 0 to 239 and 261. -/
  | rendering
  deriving DecidableEq, Repr

/-- `BANK_OOR_POLICY` (R7, 20_memory.md R88). -/
inductive OorPolicy where
  /-- A read of a bank number out of range returns 0x00 (the default). -/
  | zeroFill
  /-- The bank number is reduced modulo the bank count. -/
  | wrap
  deriving DecidableEq, Repr

/-- The two OPEN parameters a rule of the block reads. No transaction writes them. -/
structure Params where
  guard : ScrollGuard
  oor : OorPolicy
  deriving DecidableEq, Repr

namespace Config

/-- `SCANLINES`: scanlines 0 to 261 (R7). -/
@[simp] abbrev scanlines : Nat := 262
/-- `OFFSETS`: offsets 0 to 340 (R7). -/
@[simp] abbrev offsets : Nat := 341
/-- Ticks in a frame, 341 * 262 (42_timing.md R180). -/
@[simp] abbrev frameTicks : Nat := 89342
/-- `VISIBLE_LINES` (R7). -/
@[simp] abbrev visibleLines : Nat := 240
/-- `RENDER_WIDTH` (R7, decision D53). -/
@[simp] abbrev renderWidth : Nat := 256
/-- `SPRITE_CAP` (R7). -/
@[simp] abbrev spriteCap : Nat := 8
/-- The number of sprite entries, `OAM_BYTES` / 4 (R7, 10_state.md R26). -/
@[simp] abbrev oamEntries : Nat := 64
/-- `OAM_BYTES` (R7, decision D8). -/
@[simp] abbrev oamBytes : Nat := 256
/-- `VBLANK_START_LINE` (R7, decision D13). -/
@[simp] abbrev vblankStartLine : Nat := 241
/-- `VBLANK_END_LINE` (R7, decision D13). -/
@[simp] abbrev vblankEndLine : Nat := 261
/-- `PRERENDER_LINE` (R7). -/
@[simp] abbrev prerenderLine : Nat := 261
/-- `PRG_BANK_SIZE` in bytes (R7). -/
@[simp] abbrev prgBankSize : Nat := 16384
/-- `CHR_BANK_SIZE` in bytes (R7, decision D28). -/
@[simp] abbrev chrBankSize : Nat := 8192
/-- `CHR_RAM_SIZE` in bytes (R7, decision D28). -/
@[simp] abbrev chrRamSize : Nat := 8192
/-- `PRG_RAM_SIZE` in bytes (R7, decision D27). -/
@[simp] abbrev prgRamSize : Nat := 8192
/-- `NT_RAM_SIZE` in bytes (R7). -/
@[simp] abbrev ntRamSize : Nat := 2048
/-- `PALETTE_BYTES` (R7). -/
@[simp] abbrev paletteBytes : Nat := 32

/-- The defaults of R7: `LITERAL` and `ZERO_FILL`. -/
def defaultParams : Params := { guard := .literal, oor := .zeroFill }

/-- FREE VALUE (log 11): the mirroring code an MMC1 starts with when the loader's flag is neither
horizontal nor vertical; 10_state.md R40 states `m` for those two flags only. -/
opaque mmc1MirroringOfOtherFlag : Nat → BitVec 2

/-- FREE VALUE (log 13): `TICKS_PER_CPU_CYCLE`, the host's tick rate (R7, 90_conflicts.md C5). No rule
of the block reads it. -/
opaque ticksPerCpuCycle : Nat

end Config

end Sys2Proof
end

