-- ==== Sys2Proof/Syntax.lean ====
section
/-! DEFINITION. The transactions of the block: one constructor per row of spec/opcode_table.json
(30_encoding.md R102 to R105). Operands are the fields of R101, unchanged. A read has no DATA operand:
R100 says reads ignore it, and so do TICK and NMI_ACK (R105). -/

namespace Sys2Proof

inductive Instr where
  -- PR port, writes (R102): `d` is the DATA field
  | ppuWrCtrl1 (d : Byte)
  | ppuWrCtrl2 (d : Byte)
  | ppuWrStatus (d : Byte)
  | ppuWrOamAddr (d : Byte)
  | ppuWrOamData (d : Byte)
  | ppuWrScroll (d : Byte)
  | ppuWrAddr (d : Byte)
  | ppuWrData (d : Byte)
  -- PR port, reads (R102)
  | ppuRdCtrl1
  | ppuRdCtrl2
  | ppuRdStatus
  | ppuRdOamAddr
  | ppuRdOamData
  | ppuRdScroll
  | ppuRdAddr
  | ppuRdData
  -- PR port, index 8 or more (R102, R138): RW, ADDR and DATA as the word gives them
  | ppuBadIndex (rw : Bool) (idx : Addr) (d : Byte)
  -- CP port, reads (R103)
  | cpuRdUnmappedLo (a : Addr)
  | cpuRdUnmappedHi (a : Addr)
  | cpuRdSram (a : Addr)
  | cpuRdPrgLo (a : Addr)
  | cpuRdPrgHi (a : Addr)
  -- CP port, writes (R103)
  | cpuWrUnmappedLo (a : Addr) (d : Byte)
  | cpuWrUnmappedHi (a : Addr) (d : Byte)
  | cpuWrSram (a : Addr) (d : Byte)
  | cpuWrMapCtrl (a : Addr) (d : Byte)
  | cpuWrMapChr0 (a : Addr) (d : Byte)
  | cpuWrMapChr1 (a : Addr) (d : Byte)
  | cpuWrMapPrg (a : Addr) (d : Byte)
  -- PB port (R104): `a` is the whole 16-bit ADDR field
  | pbRdPal (a : Addr)
  | pbRdNt (a : Addr)
  | pbRdPat (a : Addr)
  | pbWrPal (a : Addr) (d : Byte)
  | pbWrNt (a : Addr) (d : Byte)
  | pbWrPat (a : Addr) (d : Byte)
  -- CT port (R105)
  | tick
  | nmiAck
  deriving DecidableEq, Repr

end Sys2Proof
end

