-- ==== Sys2Proof/WellFormed.lean ====
section
/-! DEFINITION. Which terms of `Instr` are transactions: an address operand lies in the range that
selects its row (30_encoding.md R102 to R104). -/

namespace Sys2Proof

/-- `lo ≤ a ≤ hi` as unsigned numbers. -/
def Addr.within (a : Addr) (lo hi : Nat) : Bool := decide (lo ≤ a.toNat) && decide (a.toNat ≤ hi)

/-- `lo ≤ addr & 0x3FFF ≤ hi`: R104 selects a PB row by the 14-bit address. -/
def Addr.busWithin (a : Addr) (lo hi : Nat) : Bool := Addr.within (a &&& 0x3FFF#16) lo hi

/-- The address operand lies in its row's range. -/
def Instr.wf : Instr → Bool
  | .ppuWrCtrl1 _ | .ppuWrCtrl2 _ | .ppuWrStatus _ | .ppuWrOamAddr _ | .ppuWrOamData _
  | .ppuWrScroll _ | .ppuWrAddr _ | .ppuWrData _ => true
  | .ppuRdCtrl1 | .ppuRdCtrl2 | .ppuRdStatus | .ppuRdOamAddr | .ppuRdOamData
  | .ppuRdScroll | .ppuRdAddr | .ppuRdData => true
  | .ppuBadIndex _ idx _ => idx.within 8 0xFFFF
  | .cpuRdUnmappedLo a => a.within 0x0000 0x3FFF
  | .cpuRdUnmappedHi a => a.within 0x4000 0x5FFF
  | .cpuRdSram a => a.within 0x6000 0x7FFF
  | .cpuRdPrgLo a => a.within 0x8000 0xBFFF
  | .cpuRdPrgHi a => a.within 0xC000 0xFFFF
  | .cpuWrUnmappedLo a _ => a.within 0x0000 0x3FFF
  | .cpuWrUnmappedHi a _ => a.within 0x4000 0x5FFF
  | .cpuWrSram a _ => a.within 0x6000 0x7FFF
  | .cpuWrMapCtrl a _ => a.within 0x8000 0x9FFF
  | .cpuWrMapChr0 a _ => a.within 0xA000 0xBFFF
  | .cpuWrMapChr1 a _ => a.within 0xC000 0xDFFF
  | .cpuWrMapPrg a _ => a.within 0xE000 0xFFFF
  | .pbRdPal a | .pbWrPal a _ => a.busWithin 0x3F00 0x3FFF
  | .pbRdNt a | .pbWrNt a _ => a.busWithin 0x2000 0x3EFF
  | .pbRdPat a | .pbWrPat a _ => a.busWithin 0x0000 0x1FFF
  | .tick | .nmiAck => true

end Sys2Proof
end

