-- ==== Sys2Proof/Decode.lean ====
section
/-! DEFINITION. The decoder, total on every 32-bit word and rejecting by name (30_encoding.md R100 to
R107), and after it the encoder, written from the same tables. -/

namespace Sys2Proof

/-- Why a word is Invalid (R106). -/
inductive DecodeReject where
  /-- `RSV` is not 0. -/
  | reservedBits
  /-- `PORT` = 3 with `RW` = 0. -/
  | controlRead
  /-- `PORT` = 3 with `ADDR` neither 0 nor 1. -/
  | controlAddress (a : Addr)
  deriving DecidableEq, Repr

/-! ### The fields of the format T (R100) -/

/-- `PORT`, bits 31:30. -/
def portField (w : TransactionWord) : BitVec 2 := w.extractLsb' 30 2
/-- `RW`, bit 29: true for a write. -/
def rwField (w : TransactionWord) : Bool := w.getLsbD 29
/-- `RSV`, bits 28:24. -/
def rsvField (w : TransactionWord) : BitVec 5 := w.extractLsb' 24 5
/-- `ADDR`, bits 23:8. -/
def addrField (w : TransactionWord) : Addr := w.extractLsb' 8 16
/-- `DATA`, bits 7:0. -/
def dataField (w : TransactionWord) : Byte := w.extractLsb' 0 8

/-! ### The opcode map (R102 to R105) -/

/-- PR port, `RW` = 1, index 0 to 7 (R102). -/
def registerWrite (index : Nat) (d : Byte) : Instr :=
  match index with
  | 0 => .ppuWrCtrl1 d
  | 1 => .ppuWrCtrl2 d
  | 2 => .ppuWrStatus d
  | 3 => .ppuWrOamAddr d
  | 4 => .ppuWrOamData d
  | 5 => .ppuWrScroll d
  | 6 => .ppuWrAddr d
  | _ => .ppuWrData d

/-- PR port, `RW` = 0, index 0 to 7 (R102). -/
def registerRead (index : Nat) : Instr :=
  match index with
  | 0 => .ppuRdCtrl1
  | 1 => .ppuRdCtrl2
  | 2 => .ppuRdStatus
  | 3 => .ppuRdOamAddr
  | 4 => .ppuRdOamData
  | 5 => .ppuRdScroll
  | 6 => .ppuRdAddr
  | _ => .ppuRdData

/-- PR port (R102): the sixteen exact rows, and `PPU_BAD_INDEX` for an index of 8 or more. -/
def decodeRegister (rw : Bool) (a : Addr) (d : Byte) : Instr :=
  if 8 ≤ a.toNat then .ppuBadIndex rw a d
  else if rw then registerWrite a.toNat d
  else registerRead a.toNat

/-- CP port, `RW` = 0 (R103). -/
def decodeCpuRead (a : Addr) : Instr :=
  if a.toNat < 0x4000 then .cpuRdUnmappedLo a
  else if a.toNat < 0x6000 then .cpuRdUnmappedHi a
  else if a.toNat < 0x8000 then .cpuRdSram a
  else if a.toNat < 0xC000 then .cpuRdPrgLo a
  else .cpuRdPrgHi a

/-- CP port, `RW` = 1 (R103). -/
def decodeCpuWrite (a : Addr) (d : Byte) : Instr :=
  if a.toNat < 0x4000 then .cpuWrUnmappedLo a d
  else if a.toNat < 0x6000 then .cpuWrUnmappedHi a d
  else if a.toNat < 0x8000 then .cpuWrSram a d
  else if a.toNat < 0xA000 then .cpuWrMapCtrl a d
  else if a.toNat < 0xC000 then .cpuWrMapChr0 a d
  else if a.toNat < 0xE000 then .cpuWrMapChr1 a d
  else .cpuWrMapPrg a d

/-- The PPU-space region an address selects, by the ordered conditions of R104. -/
inductive PpuRegion where
  | palette
  | nametable
  | pattern
  deriving DecidableEq, Repr

/-- R104: the first condition that matches wins; bits 15:14 do not matter. -/
def ppuRegion (a : Addr) : PpuRegion :=
  if a &&& 0x3F00#16 = 0x3F00#16 then .palette
  else if a &&& 0x2000#16 = 0x2000#16 then .nametable
  else .pattern

/-- PB port, `RW` = 0 (R104). -/
def decodeBusRead (a : Addr) : Instr :=
  match ppuRegion a with
  | .palette => .pbRdPal a
  | .nametable => .pbRdNt a
  | .pattern => .pbRdPat a

/-- PB port, `RW` = 1 (R104). -/
def decodeBusWrite (a : Addr) (d : Byte) : Instr :=
  match ppuRegion a with
  | .palette => .pbWrPal a d
  | .nametable => .pbWrNt a d
  | .pattern => .pbWrPat a d

/-- CT port (R105, R106). -/
def decodeControl (rw : Bool) (a : Addr) : Except DecodeReject Instr :=
  if rw = false then .error .controlRead
  else if a = 0#16 then .ok .tick
  else if a = 1#16 then .ok .nmiAck
  else .error (.controlAddress a)

/-- R107: for every 32-bit word, one mnemonic with its fields or the verdict Invalid. -/
def decodeWord (w : TransactionWord) : Except DecodeReject Instr :=
  if rsvField w ≠ 0#5 then .error .reservedBits
  else if portField w = 0#2 then .ok (decodeRegister (rwField w) (addrField w) (dataField w))
  else if portField w = 1#2 then
    .ok (if rwField w then decodeCpuWrite (addrField w) (dataField w)
         else decodeCpuRead (addrField w))
  else if portField w = 2#2 then
    .ok (if rwField w then decodeBusWrite (addrField w) (dataField w)
         else decodeBusRead (addrField w))
  else decodeControl (rwField w) (addrField w)

/-- The host's entry: the table numbers the one 32-bit word of a transaction with bit 0 its least
significant bit, as R100 does; a number that is no 32-bit word is no transaction. -/
def decodeTableWord (nbits w : Nat) : Option Instr :=
  if nbits ≤ 32 ∧ w < 2 ^ 32 then
    match decodeWord (BitVec.ofNat 32 w) with
    | .ok i => some i
    | .error _ => none
  else none

/-! ### The encoder -/

/-- R110: `PORT<<30 | RW<<29 | ADDR<<8 | DATA`, with `RSV` = 0. -/
def packWord (port : BitVec 2) (rw : Bool) (a : Addr) (d : Byte) : TransactionWord :=
  (port.setWidth 32 <<< 30) ||| ((BitVec.ofBool rw).setWidth 32 <<< 29)
    ||| (a.setWidth 32 <<< 8) ||| d.setWidth 32

/-- The word of a transaction, its ignored `DATA` bits 0 (R102 to R105). -/
def encode : Instr → TransactionWord
  | .ppuWrCtrl1 d => packWord 0 true 0 d
  | .ppuWrCtrl2 d => packWord 0 true 1 d
  | .ppuWrStatus d => packWord 0 true 2 d
  | .ppuWrOamAddr d => packWord 0 true 3 d
  | .ppuWrOamData d => packWord 0 true 4 d
  | .ppuWrScroll d => packWord 0 true 5 d
  | .ppuWrAddr d => packWord 0 true 6 d
  | .ppuWrData d => packWord 0 true 7 d
  | .ppuRdCtrl1 => packWord 0 false 0 0
  | .ppuRdCtrl2 => packWord 0 false 1 0
  | .ppuRdStatus => packWord 0 false 2 0
  | .ppuRdOamAddr => packWord 0 false 3 0
  | .ppuRdOamData => packWord 0 false 4 0
  | .ppuRdScroll => packWord 0 false 5 0
  | .ppuRdAddr => packWord 0 false 6 0
  | .ppuRdData => packWord 0 false 7 0
  | .ppuBadIndex rw idx d => packWord 0 rw idx d
  | .cpuRdUnmappedLo a => packWord 1 false a 0
  | .cpuRdUnmappedHi a => packWord 1 false a 0
  | .cpuRdSram a => packWord 1 false a 0
  | .cpuRdPrgLo a => packWord 1 false a 0
  | .cpuRdPrgHi a => packWord 1 false a 0
  | .cpuWrUnmappedLo a d => packWord 1 true a d
  | .cpuWrUnmappedHi a d => packWord 1 true a d
  | .cpuWrSram a d => packWord 1 true a d
  | .cpuWrMapCtrl a d => packWord 1 true a d
  | .cpuWrMapChr0 a d => packWord 1 true a d
  | .cpuWrMapChr1 a d => packWord 1 true a d
  | .cpuWrMapPrg a d => packWord 1 true a d
  | .pbRdPal a => packWord 2 false a 0
  | .pbRdNt a => packWord 2 false a 0
  | .pbRdPat a => packWord 2 false a 0
  | .pbWrPal a d => packWord 2 true a d
  | .pbWrNt a d => packWord 2 true a d
  | .pbWrPat a d => packWord 2 true a d
  | .tick => packWord 3 true 0 0
  | .nmiAck => packWord 3 true 1 0

end Sys2Proof
end

