-- ==== Sys2Proof/Machine/State.lean ====
section
/-! DEFINITION. The state of the block as plain data (10_state.md), the reasons a run can stop, and the
state right after reset (70_reset_and_hazards.md R280, R281). INVENTORY.md lists every element with its
rule and reset value. -/

namespace Sys2Proof.Machine

/-! ### Faults and refusals -/

/-- The construction checks of 60_exceptions.md R252. -/
inductive ConfigCheck where
  /-- `PRG_RAM_UNITS` > 1. -/
  | prgRamUnits
  /-- A PRG buffer is not 16384 bytes. -/
  | prgBufferSize
  /-- A CHR buffer is not 8192 bytes. -/
  | chrBufferSize
  /-- NoMapper with `CHR_BANK_COUNT` > 1. -/
  | noMapperChrCount
  /-- NoMapper with a mirroring flag other than horizontal or vertical. -/
  | noMapperMirroring
  /-- MMC1 with `PRG_BANK_COUNT` = 0. -/
  | mmc1PrgCount
  deriving DecidableEq, Repr

/-- The mode fields a rule could find outside their range (R251 code 4). -/
inductive ModeField where
  /-- `mmc1.control.PRGM` (R255). -/
  | mmc1PrgMode
  deriving DecidableEq, Repr

/-- The fault reasons of 60_exceptions.md R251. A fault is the spec's own HALTED STATE: the rule that
raises it sets `State.fault` and the step answers a next state (R250, log 4), so no step of the model
answers `Host.Outcome.fault`. -/
inductive Fault where
  /-- Code 1. Raised by `construct` (R252, R280) with the checks that fail. Safe: the block takes no
  effect afterwards, as the spec says. -/
  | configInvalid (failed : List ConfigCheck)
  /-- Code 2. Raised by the six reads of a write-only register (R253). Safe: the spec's own stop. -/
  | writeOnlyRegisterRead (index : BitVec 3)
  /-- Code 3. Raised by `PPU_BAD_INDEX` (R138, R254). Safe: the spec's own stop. -/
  | registerIndexOutOfRange (index : Addr)
  /-- Code 4. Raised by nothing: the field is 2 bits wide and has no value outside 0 to 3 (R255). -/
  | unreachableMode (field : ModeField) (value : Nat)
  deriving DecidableEq, Repr

/-- What the model answers no state for. -/
inductive Refusal where
  /-- Raised by `exec` alone, for an instruction that has no meaning yet; no arm raises it now. Safe. -/
  | notModelled (mnemonic : String)
  /-- Raised by `step` on a word the decoder refuses: no transaction happens (30_encoding.md R106).
  Safe: "A model refuses an invalid word (toward unprovable)". -/
  | invalidWord (w : TransactionWord) (why : DecodeReject)
  deriving DecidableEq, Repr

/-! ### Memory -/

/-- A memory: address and byte pairs, addresses strictly rising, none holding what an unlisted address
reads as. -/
abbrev Memory := List Host.Cell

/-- What an unlisted address reads as. DESIGN CHOICE, unsafe for RAM (log 6): R282 gives no value and
takes the contents as RAM_INIT, which `construct` takes as an argument. -/
def unlistedByte : Byte := 0x00

/-- The canonical form from address `lo` up, every address below `size`. -/
def Memory.wfFrom (size lo : Nat) : Memory → Bool
  | [] => true
  | (k, b) :: rest =>
    decide (lo ≤ k) && decide (k < size) && decide (b ≠ unlistedByte)
      && Memory.wfFrom size (k + 1) rest

/-- The canonical form of a memory of `size` bytes. -/
def Memory.wf (size : Nat) (m : Memory) : Bool := Memory.wfFrom size 0 m

/-- A read-only buffer the loader supplies: its length and its bytes (10_state.md R38). -/
structure Rom where
  size : Nat
  bytes : Memory
  deriving DecidableEq, Repr

/-! ### The PPU (10_state.md sections 1, 3, 4) -/

/-- The output events of 10_state.md R37. -/
inductive Event where
  | preRender (y : Nat)
  | setPixel (x y : Nat) (color : Byte)
  | postRender (y : Nat)
  | renderSync
  deriving DecidableEq, Repr

structure Ppu where
  /-- Register 0 (R22). -/
  ctrl1 : Byte
  /-- Register 1 (R23). -/
  ctrl2 : Byte
  /-- Status flags (R24, R25). -/
  vblank : Bool
  s0hit : Bool
  overflow : Bool
  /-- The OAM write cursor (R28). -/
  oamAddr : Byte
  /-- The current VRAM address (R29). -/
  v : VramAddr
  /-- The temporary VRAM address (R30). -/
  t : VramAddr
  /-- Fine-X scroll (R31). -/
  x : BitVec 3
  /-- The write toggle; false is the initial phase (R32). -/
  w : Bool
  /-- The buffered VRAM read latch (R34). -/
  rdbuf : Byte
  /-- The cycle counter, unbounded (R35). -/
  cyc : Nat
  /-- The NMI output (R36). -/
  nmi : Bool
  /-- The output event trace, oldest first (R37). -/
  events : List Event
  deriving DecidableEq, Repr

/-! ### The mapper (10_state.md section 5) -/

/-- `nm.mirroring` (R39). -/
inductive Mirroring where
  | horizontal
  | vertical
  deriving DecidableEq, Repr

/-- The MMC1 registers and serial port (R40 to R43). -/
structure Mmc1 where
  control : Reg5
  chr0 : Reg5
  chr1 : Reg5
  prg : Reg5
  sr : Reg5
  /-- The fill count, 0 to 4 between transactions (an invariant, `mapperWf`). -/
  cnt : Nat
  deriving DecidableEq, Repr

/-- `MAPPER_VARIANT` with the state each variant adds (R7, R38 to R43). -/
inductive Mapper where
  | noMapper (mirroring : Mirroring)
  | mmc1 (regs : Mmc1)
  deriving DecidableEq, Repr

/-! ### The whole state -/

structure State where
  ppu : Ppu
  /-- Object attribute memory, 256 bytes (R26). -/
  oam : Memory
  /-- PRG ROM, one buffer a bank (R38). -/
  prg : List Rom
  /-- CHR ROM, one buffer a bank; empty means CHR RAM is used (R38). -/
  chr : List Rom
  chrRam : Memory
  prgRam : Memory
  ntRam : Memory
  palRam : Memory
  /-- `PRG_RAM_UNITS` (R7). -/
  prgRamUnits : Nat
  mapper : Mapper
  params : Params
  /-- `none`, or `some reason` for halted(reason) (R44). -/
  fault : Option Fault
  /-- The transaction words the host has issued and the block has not taken, oldest first (log 1). -/
  pending : List TransactionWord
  /-- What the last transaction returned: a read's u8, or none (30_encoding.md R100, log 2). -/
  result : Option Byte
  deriving DecidableEq, Repr

namespace State

/-! One update per component a transaction can write; Laws/State.lean has their lemmas. -/

def setPpu (s : State) (p : Ppu) : State := { s with ppu := p }
def setOam (s : State) (m : Memory) : State := { s with oam := m }
def setChrRam (s : State) (m : Memory) : State := { s with chrRam := m }
def setPrgRam (s : State) (m : Memory) : State := { s with prgRam := m }
def setNtRam (s : State) (m : Memory) : State := { s with ntRam := m }
def setPalRam (s : State) (m : Memory) : State := { s with palRam := m }
def setMapper (s : State) (m : Mapper) : State := { s with mapper := m }
def setFault (s : State) (f : Option Fault) : State := { s with fault := f }
def setPending (s : State) (ws : List TransactionWord) : State := { s with pending := ws }
def setResult (s : State) (r : Option Byte) : State := { s with result := r }

end State

/-! ### Reset -/

/-- Every PPU element at its reset value (70_reset_and_hazards.md R281). -/
def Ppu.reset : Ppu where
  ctrl1 := 0x00
  ctrl2 := 0x00
  vblank := false
  s0hit := false
  overflow := false
  oamAddr := 0x00
  v := 0x0000
  t := 0x0000
  x := 0
  w := false
  rdbuf := 0x00
  cyc := 0
  nmi := false
  events := []

/-- The block right after construction. The registers are R281's; the cartridge is the loader's, and
this one constant takes NoMapper with no ROM, CHR RAM, one PRG RAM unit and horizontal mirroring
(DESIGN CHOICE, log 7), the default parameters (R7, log 8) and RAM that reads 0x00 (DESIGN CHOICE,
log 6). `construct` (Construct.lean) gives the block for any loader data, parameters and RAM_INIT. -/
def State.reset : State where
  ppu := Ppu.reset
  oam := []
  prg := []
  chr := []
  chrRam := []
  prgRam := []
  ntRam := []
  palRam := []
  prgRamUnits := 1
  mapper := .noMapper .horizontal
  params := Config.defaultParams
  fault := none
  pending := []
  result := none

end Sys2Proof.Machine
end

