-- ==== Sys2Proof/Machine/Operands.lean ====
section
/-! DEFINITION. Every bit field a rule reads: the control registers (10_state.md R22, R23), the sprite
attribute byte (R27), the VRAM address layout (R33) and the MMC1 control register (R40). -/

namespace Sys2Proof.Machine

/-! ### control1 (R22) -/

/-- `ctrl1.INC`: VRAM address step 32. -/
def ctrl1Inc (c : Byte) : Bool := c.getLsbD 2
/-- `ctrl1.SPT`: sprite pattern table 1. -/
def ctrl1Spt (c : Byte) : Bool := c.getLsbD 3
/-- `ctrl1.BGT`: background pattern table 1. -/
def ctrl1Bgt (c : Byte) : Bool := c.getLsbD 4
/-- `ctrl1.NMI`: raise NMI at vblank start. -/
def ctrl1Nmi (c : Byte) : Bool := c.getLsbD 7

/-! ### control2 (R23) -/

/-- `ctrl2.BGE`: background enable. -/
def ctrl2Bge (c : Byte) : Bool := c.getLsbD 3
/-- `ctrl2.SPE`: sprite enable. -/
def ctrl2Spe (c : Byte) : Bool := c.getLsbD 4

/-! ### The sprite attribute byte (R27) -/

/-- `ATTR.SPAL`, the sprite palette. -/
def attrSpal (a : Byte) : BitVec 2 := a.extractLsb' 0 2
/-- `ATTR.BEHIND`. -/
def attrBehind (a : Byte) : Bool := a.getLsbD 5
/-- `ATTR.HFLIP`. -/
def attrHflip (a : Byte) : Bool := a.getLsbD 6
/-- `ATTR.VFLIP`. -/
def attrVflip (a : Byte) : Bool := a.getLsbD 7

/-! ### `ppu.v` and `ppu.t` (R33) -/

/-- Fine Y, bits 14:12. -/
def fineY (v : VramAddr) : BitVec 3 := v.extractLsb' 12 3
/-- Coarse Y, bits 9:5. -/
def coarseY (v : VramAddr) : BitVec 5 := v.extractLsb' 5 5
/-- Coarse X, bits 4:0. -/
def coarseX (v : VramAddr) : BitVec 5 := v.extractLsb' 0 5

/-- The 16-bit PPU address `v & 0x3FFF` (R33). -/
def vramBusAddr (v : VramAddr) : Addr := v.setWidth 16 &&& 0x3FFF#16

/-! ### MMC1 registers (R40, R42) -/

/-- `control.MIR`, bits 1:0. -/
def controlMir (c : Reg5) : BitVec 2 := c.extractLsb' 0 2
/-- `control.PRGM`, bits 3:2. -/
def controlPrgm (c : Reg5) : BitVec 2 := c.extractLsb' 2 2
/-- `control.CHRM`, bit 4: two 4KB banks. -/
def controlChrm (c : Reg5) : Bool := c.getLsbD 4
/-- `prg[3:0]`, the PRG bank number. -/
def prgBankField (p : Reg5) : BitVec 4 := p.extractLsb' 0 4

/-! ### Write operands of the scroll and address registers (40_ppu_registers.md) -/

/-- `PPU_WR_CTRL1` (R120): `(t & ~0x0C00) | ((d & 0x03) << 10)`. -/
def foldNametable (t : VramAddr) (d : Byte) : VramAddr :=
  (t &&& ~~~(0x0C00#15)) ||| ((d &&& 0x03#8).setWidth 15 <<< 10)

/-- First scroll write (R125): `(t & ~0x001F) | (d >> 3)`. -/
def foldScrollX (t : VramAddr) (d : Byte) : VramAddr :=
  (t &&& ~~~(0x001F#15)) ||| (d >>> 3).setWidth 15

/-- First scroll write (R125): fine X is `d & 0x07`. -/
def scrollFineX (d : Byte) : BitVec 3 := (d &&& 0x07#8).setWidth 3

/-- Second scroll write (R126): `(t & ~0x73E0) | ((d & 0x07) << 12) | ((d >> 3) << 5)`. -/
def foldScrollY (t : VramAddr) (d : Byte) : VramAddr :=
  (t &&& ~~~(0x73E0#15)) ||| ((d &&& 0x07#8).setWidth 15 <<< 12)
    ||| ((d >>> 3).setWidth 15 <<< 5)

/-- First address write (R127): `(t & 0x00FF) | ((d & 0x3F) << 8)`. -/
def foldAddrHigh (t : VramAddr) (d : Byte) : VramAddr :=
  (t &&& 0x00FF#15) ||| ((d &&& 0x3F#8).setWidth 15 <<< 8)

/-- Second address write (R128): `(t & 0x7F00) | d`. -/
def foldAddrLow (t : VramAddr) (d : Byte) : VramAddr :=
  (t &&& 0x7F00#15) ||| d.setWidth 15

/-- `Step()` (R139): 32 when `ctrl1.INC` = 1, else 1. -/
def vramStep (ctrl1 : Byte) : VramAddr := if ctrl1Inc ctrl1 then 32#15 else 1#15

end Sys2Proof.Machine
end

