-- ==== Sys2Proof/Machine/Flags.lean ====
section
/-! DEFINITION. The status flags (10_state.md R24, R25): the status byte, and the tick and read actions
that set and clear the flags and the NMI output. -/

namespace Sys2Proof.Machine

/-- The status byte: bit 7 vblank, bit 6 s0hit, bit 5 overflow, bits 4:0 zero (R24, R132). -/
def statusByte (p : Ppu) : Byte :=
  ((BitVec.ofBool p.vblank).setWidth 8 <<< 7) ||| ((BitVec.ofBool p.s0hit).setWidth 8 <<< 6)
    ||| ((BitVec.ofBool p.overflow).setWidth 8 <<< 5)

/-- What a status read does to the flags and the toggle (R132). -/
def afterStatusRead (p : Ppu) : Ppu := { p with vblank := false, w := false }

/-- Vblank start (42_timing.md R188): RenderSync, vblank set, NMI raised when enabled. -/
def vblankStart (p : Ppu) : Ppu :=
  { p with
    events := p.events ++ [.renderSync]
    vblank := true
    nmi := ctrl1Nmi p.ctrl1 || p.nmi }

/-- Vblank end (42_timing.md R189). -/
def vblankEnd (p : Ppu) : Ppu := { p with vblank := false, s0hit := false, overflow := false }

/-- NMI acknowledge (60_exceptions.md R256). -/
def nmiCleared (p : Ppu) : Ppu := { p with nmi := false }

end Sys2Proof.Machine
end

