-- ==== Sys2Proof/Machine/Ops.lean ====
section
/-! DEFINITION. The named operations over memory, banks and registers that the meanings share: one
memory cell, the address translator and bank functions (20_memory.md), the two address spaces, the MMC1
serial port (41_mapper_access.md section 2), raising a fault (60_exceptions.md R250) and the frame every
transaction runs in. -/

namespace Sys2Proof.Machine

/-! ### One byte of a memory -/

/-- The byte at an address; an address the list does not hold reads as `unlistedByte`. -/
def cellRead : Memory → Nat → Byte
  | [], _ => unlistedByte
  | (k, b) :: rest, a => if k = a then b else cellRead rest a

/-- Store a byte, keeping the canonical form. -/
def cellWrite : Memory → Nat → Byte → Memory
  | [], a, d => if d = unlistedByte then [] else [(a, d)]
  | (k, b) :: rest, a, d =>
    if k < a then (k, b) :: cellWrite rest a d
    else if k = a then (if d = unlistedByte then rest else (a, d) :: rest)
    else if d = unlistedByte then (k, b) :: rest
    else (a, d) :: (k, b) :: rest

/-! ### ROM banks (R72, R88) -/

/-- The bank a bank number selects: itself when in range, else by `BANK_OOR_POLICY` (R88). -/
def selectBank (oor : OorPolicy) (count k : Nat) : Option Nat :=
  if k < count then some k
  else match oor with
    | .zeroFill => none
    | .wrap => if count = 0 then none else some (k % count)

/-- A byte of a bank, or 0x00 where no bank is selected (R72 `PrgRead`, R85 `ChrRomByte`, R88). -/
def romByte (oor : OorPolicy) (banks : List Rom) (k offset : Nat) : Byte :=
  match selectBank oor banks.length k with
  | none => 0x00
  | some j =>
    match banks[j]? with
    | none => 0x00
    | some rom => cellRead rom.bytes offset

/-! ### PRG windows (R78, R82) -/

/-- MMC1 `lower_bank()` (R82). -/
def mmc1LowerBank (m : Mmc1) : Nat :=
  let r := (prgBankField m.prg).toNat
  match (controlPrgm m.control).toNat with
  | 2 => 0
  | 3 => r
  | _ => (prgBankField m.prg &&& 0x0E#4).toNat

/-- MMC1 `upper_bank()` (R82). -/
def mmc1UpperBank (m : Mmc1) (count : Nat) : Nat :=
  let r := (prgBankField m.prg).toNat
  match (controlPrgm m.control).toNat with
  | 2 => r
  | 3 => count - 1
  | _ => ((prgBankField m.prg &&& 0x0E#4) ||| 1#4).toNat

/-- `lower_bank()` of the variant; none where every read of the windows returns 0x00 (R78, R82). -/
def lowerBank (s : State) : Option Nat :=
  match s.mapper with
  | .noMapper _ => if s.prg.length = 2 then some 0 else if s.prg.length = 1 then some 0 else none
  | .mmc1 m => some (mmc1LowerBank m)

/-- `upper_bank()` of the variant (R78, R82). -/
def upperBank (s : State) : Option Nat :=
  match s.mapper with
  | .noMapper _ => if s.prg.length = 2 then some 1 else if s.prg.length = 1 then some 0 else none
  | .mmc1 m => some (mmc1UpperBank m s.prg.length)

/-- `PrgRead` through a window (R72, R78, R83). -/
def prgRead (s : State) (bank : Option Nat) (offset : Nat) : Byte :=
  match bank with
  | none => 0x00
  | some k => romByte s.params.oor s.prg k offset

/-! ### CPU space (R72, R73) -/

/-- R79, R84: PRG RAM, or 0x00 with none. -/
def sramRead (s : State) (a : Addr) : Byte :=
  if s.prgRamUnits = 1 then cellRead s.prgRam (a.toNat - 0x6000) else 0x00

/-- R79, R84: stores only with PRG RAM. -/
def sramWrite (s : State) (a : Addr) (d : Byte) : State :=
  if s.prgRamUnits = 1 then s.setPrgRam (cellWrite s.prgRam (a.toNat - 0x6000) d) else s

/-- `MemRead(CPU, addr, 1)` (R72). -/
def cpuRead (s : State) (a : Addr) : Byte :=
  if a.toNat < 0x6000 then 0x00
  else if a.toNat < 0x8000 then sramRead s a
  else if a.toNat < 0xC000 then prgRead s (lowerBank s) (a.toNat - 0x8000)
  else prgRead s (upperBank s) (a.toNat - 0xC000)

/-! ### The MMC1 serial port (41_mapper_access.md R157 to R160) -/

/-- `ResetWrite()` (R158). -/
def serialReset (m : Mmc1) : Mmc1 :=
  { m with sr := 0, cnt := 0, control := m.control ||| 0x0C#5 }

/-- `ShiftIn(b)` (R159). -/
def shiftIn (m : Mmc1) (b : Bool) : Mmc1 :=
  { m with sr := (m.sr >>> 1) ||| ((BitVec.ofBool b).setWidth 5 <<< 4), cnt := m.cnt + 1 }

/-- `Commit(sel)` (R160). -/
def serialCommit (m : Mmc1) (sel : BitVec 2) : Mmc1 :=
  let committed :=
    match sel.toNat with
    | 0 => { m with control := m.sr }
    | 1 => { m with chr0 := m.sr }
    | 2 => { m with chr1 := m.sr }
    | _ => { m with prg := m.sr }
  { committed with sr := 0, cnt := 0 }

/-- `SerialWrite(addr, d)` (R157): the target is `addr[14:13]`. -/
def serialWrite (m : Mmc1) (a : Addr) (d : Byte) : Mmc1 :=
  if d.getLsbD 7 then serialReset m
  else
    let shifted := shiftIn m (d.getLsbD 0)
    if shifted.cnt = 5 then serialCommit shifted (a.extractLsb' 13 2) else shifted

/-- A CPU write at or above 0x8000 (R73): the serial port on MMC1, no effect on NoMapper. -/
def mapperWrite (s : State) (a : Addr) (d : Byte) : State :=
  match s.mapper with
  | .noMapper _ => s
  | .mmc1 m => s.setMapper (.mmc1 (serialWrite m a d))

/-- `MemWrite(CPU, addr, 1, d)` (R73). -/
def cpuWrite (s : State) (a : Addr) (d : Byte) : State :=
  if a.toNat < 0x6000 then s
  else if a.toNat < 0x8000 then sramWrite s a d
  else mapperWrite s a d

/-! ### The AddressTranslator (R67 to R71) -/

/-- The mirroring modes H, V, S0, S1 of R71. -/
inductive NtMode where
  | horizontal
  | vertical
  | singleLow
  | singleHigh
  deriving DecidableEq, Repr

/-- `translate_m` (R68, R69, R70). -/
def ntTranslate (m : NtMode) (a : Addr) : Addr :=
  match m with
  | .horizontal => 0x2000#16 ||| (a &&& 0x0800#16) ||| (a &&& 0x03FF#16)
  | .vertical => 0x2000#16 ||| (a &&& 0x0400#16) ||| (a &&& 0x03FF#16)
  | .singleLow => 0x2000#16 ||| (a &&& 0x03FF#16)
  | .singleHigh => 0x2000#16 ||| (a &&& 0x03FF#16)

/-- `block_m` (R68, R69, R70). -/
def ntBlock (m : NtMode) (a : Addr) : Nat :=
  match m with
  | .horizontal => (a.getLsbD 11).toNat
  | .vertical => (a.getLsbD 10).toNat
  | .singleLow => 0
  | .singleHigh => 1

/-- The byte of `nt_ram` a nametable address reaches (R71). -/
def ntIndex (m : NtMode) (a : Addr) : Nat := ntBlock m a * 0x400 + (a.extractLsb' 0 10).toNat

/-- The mode the mapper selects (R81, R87). -/
def ntMode (m : Mapper) : NtMode :=
  match m with
  | .noMapper .horizontal => .horizontal
  | .noMapper .vertical => .vertical
  | .mmc1 r =>
    match (controlMir r.control).toNat with
    | 0 => .singleLow
    | 1 => .singleHigh
    | 2 => .vertical
    | _ => .horizontal

/-- The nametable address of a PPU address in 0x2000 to 0x3EFF (R77). -/
def nametableAddr (a : Addr) : Addr := 0x2000#16 ||| (a &&& 0x0FFF#16)

/-- `PalIndex(a)` (R76). -/
def palIndex (a : Addr) : Nat :=
  let i := a &&& 0x1F#16
  if i = 0x10#16 ∨ i = 0x14#16 ∨ i = 0x18#16 ∨ i = 0x1C#16 then (i &&& 0x0F#16).toNat else i.toNat

/-! ### PPU space (R74, R75) -/

/-- Where a PPU-space byte stands: which storage of the mapper, and where in it. -/
inductive PpuLoc where
  | chrRom (buffer offset : Nat)
  | chrRam (offset : Nat)
  | nametable (offset : Nat)
  | palette (offset : Nat)
  deriving DecidableEq, Repr

/-- The 4KB unit of CHR ROM an MMC1 pattern address selects (R85). -/
def mmc1ChrUnit (m : Mmc1) (a : Addr) : Nat :=
  if controlChrm m.control then
    (if a.getLsbD 12 then m.chr1 else m.chr0).toNat
  else ((m.chr0 &&& 0x1E#5) ||| (BitVec.ofBool (a.getLsbD 12)).setWidth 5).toNat

/-- The byte of CHR RAM an MMC1 pattern address selects (R86). -/
def mmc1ChrRamIndex (m : Mmc1) (a : Addr) : Nat :=
  if controlChrm m.control then
    ((if a.getLsbD 12 then m.chr1 else m.chr0).getLsbD 0).toNat * 0x1000
      + (a.extractLsb' 0 12).toNat
  else a.toNat

/-- Where a pattern address (0x0000 to 0x1FFF) stands (NoMapper R80; MMC1 R85, R86). -/
def chrLocate (s : State) (a : Addr) : PpuLoc :=
  match s.mapper with
  | .noMapper _ => if s.chr.length = 1 then .chrRom 0 a.toNat else .chrRam a.toNat
  | .mmc1 m =>
    if s.chr.length = 0 then .chrRam (mmc1ChrRamIndex m a)
    else
      let u := mmc1ChrUnit m a
      .chrRom (u / 2) (u % 2 * 0x1000 + (a.extractLsb' 0 12).toNat)

/-- Where a nametable address (0x2000 to 0x3EFF) stands (R71, R77). -/
def ntLocate (s : State) (a : Addr) : PpuLoc :=
  .nametable (ntIndex (ntMode s.mapper) (nametableAddr a))

/-- Where a palette address (0x3F00 to 0x3FFF) stands (R76). -/
def palLocate (a : Addr) : PpuLoc := .palette (palIndex a)

/-- Where a PPU-space address stands (R62, R63, R74). -/
def ppuLocate (s : State) (addr : Addr) : PpuLoc :=
  let a := addr &&& 0x3FFF#16
  if a.toNat < 0x2000 then chrLocate s a
  else if a.toNat < 0x3F00 then ntLocate s a
  else palLocate a

/-- The byte at a place (R74). -/
def readLoc (s : State) : PpuLoc → Byte
  | .chrRom k o => romByte s.params.oor s.chr k o
  | .chrRam o => cellRead s.chrRam o
  | .nametable o => cellRead s.ntRam o
  | .palette o => cellRead s.palRam o

/-- Store at a place (R75): ROM is read-only, CHR RAM is written only when there is no CHR ROM. -/
def writeLoc (s : State) (l : PpuLoc) (d : Byte) : State :=
  match l with
  | .chrRom _ _ => s
  | .chrRam o => if s.chr.length = 0 then s.setChrRam (cellWrite s.chrRam o d) else s
  | .nametable o => s.setNtRam (cellWrite s.ntRam o d)
  | .palette o => s.setPalRam (cellWrite s.palRam o d)

/-- `MemRead(PPU, addr, 1)` (R74). -/
def ppuRead (s : State) (addr : Addr) : Byte := readLoc s (ppuLocate s addr)

/-- `MemWrite(PPU, addr, 1, d)` (R75). -/
def ppuWrite (s : State) (addr : Addr) (d : Byte) : State := writeLoc s (ppuLocate s addr) d

/-! ### Register 7 (40_ppu_registers.md R139) -/

/-- `v <- (v + Step()) mod 2^15` (R139). -/
def stepV (p : Ppu) : Ppu := { p with v := p.v + vramStep p.ctrl1 }

/-! ### Faults (60_exceptions.md R250, R251) -/

/-- `raise Fault(reason)`: `fault <- halted(reason)` (R250). The block saves nothing else and goes
nowhere (R259), and nothing undoes it: there is no return from a fault (R260). -/
def raiseFault (reason : Fault) (s : State) : State := s.setFault (some reason)

/-- The code of a fault reason (R251). -/
def faultCode : Fault → Nat
  | .configInvalid _ => 1
  | .writeOnlyRegisterRead _ => 2
  | .registerIndexOutOfRange _ => 3
  | .unreachableMode _ _ => 4

/-! ### The frame of a transaction -/

/-- A transaction that returns nothing (R100): its effect when the block runs, none when the block is
halted (R250). -/
def transact (effect : State → State) (s : State) : Host.Outcome State Fault Refusal :=
  match s.fault with
  | none => .next ((effect s).setResult none)
  | some _ => .next (s.setResult none)

/-- A transaction that returns a u8 (R100); a halted block returns no value (R250). -/
def transactRead (effect : State → Byte × State) (s : State) : Host.Outcome State Fault Refusal :=
  match s.fault with
  | none => .next ((effect s).2.setResult (some (effect s).1))
  | some _ => .next (s.setResult none)

/-! ### Taking the next transaction (20_memory.md R90) -/

/-- The oldest transaction word the host has issued, and the state without it. -/
def fetchWord (s : State) : Option (TransactionWord × State) :=
  match s.pending with
  | [] => none
  | w :: rest => some (w, s.setPending rest)

end Sys2Proof.Machine
end

