-- ==== Sys2Proof/Machine/Construct.lean ====
section
/-! DEFINITION. Construction, the block's one reset (70_reset_and_hazards.md R280 to R282), from the
loader's data, the parameters and RAM_INIT. -/

namespace Sys2Proof.Machine

/-- `MAPPER_VARIANT` (00_scope.md R7). -/
inductive Variant where
  | noMapper
  | mmc1
  deriving DecidableEq, Repr

/-- The loader's mirroring flag; R252 checks for a flag that is neither of the first two. -/
inductive MirrorFlag where
  | horizontal
  | vertical
  | other (code : Nat)
  deriving DecidableEq, Repr

/-- What the loader supplies (00_scope.md R5, R7, 10_state.md R38). -/
structure Loader where
  variant : Variant
  prg : List Rom
  chr : List Rom
  prgRamUnits : Nat
  mirroring : MirrorFlag
  deriving DecidableEq, Repr

/-- RAM_INIT: the contents of every RAM, a draw the model does not fix (R282). -/
structure RamInit where
  oam : Memory
  ntRam : Memory
  palRam : Memory
  chrRam : Memory
  prgRam : Memory
  deriving DecidableEq, Repr

/-- The checks of 60_exceptions.md R252 that fail, in the order it lists them (log 10). -/
def failedChecks (l : Loader) : List ConfigCheck :=
  (if l.prgRamUnits > 1 then [.prgRamUnits] else [])
    ++ (if l.prg.all (fun r => r.size = Config.prgBankSize) then [] else [.prgBufferSize])
    ++ (if l.chr.all (fun r => r.size = Config.chrBankSize) then [] else [.chrBufferSize])
    ++ (match l.variant with
        | .noMapper =>
          (if l.chr.length > 1 then [.noMapperChrCount] else [])
            ++ (match l.mirroring with
                | .horizontal | .vertical => []
                | .other _ => [.noMapperMirroring])
        | .mmc1 => if l.prg.length = 0 then [.mmc1PrgCount] else [])

/-- `m` of the MMC1 control reset value (10_state.md R40); free for another flag (log 11). -/
def controlResetMir (f : MirrorFlag) : BitVec 2 :=
  match f with
  | .vertical => 2
  | .horizontal => 3
  | .other code => Config.mmc1MirroringOfOtherFlag code

/-- The mapper's own registers at their reset values (R281). A NoMapper loader with another mirroring
flag fails its checks (60_exceptions.md R252) and the spec gives its mirroring no value: horizontal is a
DESIGN CHOICE (log 10). -/
def mapperReset (l : Loader) : Mapper :=
  match l.variant with
  | .noMapper =>
    .noMapper (match l.mirroring with
      | .vertical => .vertical
      | .horizontal | .other _ => .horizontal)
  | .mmc1 =>
    .mmc1 { control := 0x0C#5 ||| (controlResetMir l.mirroring).setWidth 5
            chr0 := 0, chr1 := 0, prg := 0, sr := 0, cnt := 0 }

/-- Construction (R280): the checks first, then every element at its reset value. A RAM that is not
present (10_state.md R38) holds nothing. When a check fails the block is halted and its other elements
can be seen by no transaction (log 10). -/
def construct (params : Params) (l : Loader) (ram : RamInit) : State where
  ppu := Ppu.reset
  oam := ram.oam
  prg := l.prg
  chr := l.chr
  chrRam := if l.chr.length = 0 then ram.chrRam else []
  prgRam := if l.prgRamUnits = 1 then ram.prgRam else []
  ntRam := ram.ntRam
  palRam := ram.palRam
  prgRamUnits := l.prgRamUnits
  mapper := mapperReset l
  params := params
  fault := if failedChecks l = [] then none else some (.configInvalid (failedChecks l))
  pending := []
  result := none

/-- The loader data `State.reset` takes (log 7). -/
def resetLoader : Loader where
  variant := .noMapper
  prg := []
  chr := []
  prgRamUnits := 1
  mirroring := .horizontal

/-- The RAM contents `State.reset` takes (log 6). -/
def resetRam : RamInit where
  oam := []
  ntRam := []
  palRam := []
  chrRam := []
  prgRam := []

end Sys2Proof.Machine
end

