-- ==== Sys2Proof/Machine/Scroll.lean ====
section
/-! DEFINITION. The scroll-counter functions and the reload masks (42_timing.md R185 to R191). -/

namespace Sys2Proof.Machine

/-- `IncCoarseX(v)` (R190). -/
def incCoarseX (v : VramAddr) : VramAddr :=
  if coarseX v = 31#5 then (v &&& ~~~(0x001F#15)) ^^^ 0x0400#15 else v + 1#15

/-- `IncY(v)` (R191). -/
def incY (v : VramAddr) : VramAddr :=
  if (fineY v).toNat < 7 then v + 0x1000#15
  else
    let v' := v &&& ~~~(0x7000#15)
    if coarseY v = 29#5 then (v' &&& ~~~(0x03E0#15)) ^^^ 0x0800#15
    else if coarseY v = 31#5 then v' &&& ~~~(0x03E0#15)
    else v' + 0x0020#15

/-- The horizontal reload, mask 0x041F (R186). -/
def reloadHorizontal (v t : VramAddr) : VramAddr := (v &&& ~~~(0x041F#15)) ||| (t &&& 0x041F#15)

/-- The vertical reload, mask 0x7BE0 (R187). -/
def reloadVertical (v t : VramAddr) : VramAddr := (v &&& ~~~(0x7BE0#15)) ||| (t &&& 0x7BE0#15)

end Sys2Proof.Machine
end

