-- ==== Sys2Proof/Machine/Render.lean ====
section
/-! DEFINITION. The scanline renderer (43_renderer.md): the background pass, the sprite pass and the
emitted row. The row and its opaque marks are scratch that lives inside one render action (10_state.md
R45); no memory changes while it runs. -/

namespace Sys2Proof.Machine

/-- One entry of `row` with its `bg_opaque` bit (R45, R210). -/
structure Pixel where
  color : Byte
  bgOpaque : Bool
  deriving DecidableEq, Repr

/-! ### Fetch addresses -/

/-- `NtAddr(v)` (R212). -/
def ntAddr (v : VramAddr) : Addr := 0x2000#16 ||| (v.setWidth 16 &&& 0x0FFF#16)

/-- `AtAddr(v)` (R213). -/
def atAddr (v : VramAddr) : Addr :=
  0x23C0#16 ||| (v.setWidth 16 &&& 0x0C00#16) ||| ((v.setWidth 16 >>> 4) &&& 0x38#16)
    ||| ((v.setWidth 16 >>> 2) &&& 0x07#16)

/-- `PatAddr(base, tile, fy)` (R214), used for sprites too (R225). -/
def patAddr (table : Bool) (tile : Byte) (row : BitVec 3) : Addr :=
  (if table then 0x1000#16 else 0x0000#16) + 16#16 * tile.setWidth 16 + row.setWidth 16

/-- `ColorIndex(lo, hi, c)`, column 0 leftmost (R215). -/
def colorIndex (lo hi : Byte) (c : Nat) : BitVec 2 :=
  BitVec.ofBool (hi.getLsbD (7 - c)) ++ BitVec.ofBool (lo.getLsbD (7 - c))

/-- `AtShift(v)` (R216). -/
def atShift (v : VramAddr) : Nat :=
  (((coarseY v &&& 2#5) <<< 1) ||| (coarseX v &&& 2#5)).toNat

/-- `BgColorAddr(pal, ci)` (R218). -/
def bgColorAddr (pal ci : BitVec 2) : Addr :=
  if ci = 0#2 then 0x3F00#16 else 0x3F00#16 ||| (pal.setWidth 16 <<< 2) ||| ci.setWidth 16

/-- The colour address of a sprite pixel (R227). -/
def spriteColorAddr (pal ci : BitVec 2) : Addr :=
  0x3F10#16 ||| (pal.setWidth 16 <<< 2) ||| ci.setWidth 16

/-! ### Background pass (R211 to R219) -/

/-- What the pass fetches for one tile: the two bit planes of its row and its palette. -/
structure TileRow where
  lo : Byte
  hi : Byte
  pal : BitVec 2
  deriving DecidableEq, Repr

/-- The fetches of one tile at `v` (R211 to R214, R216). -/
def bgTile (s : State) (v : VramAddr) : TileRow :=
  let tile := ppuRead s (ntAddr v)
  let attr := ppuRead s (atAddr v)
  let plane := patAddr (ctrl1Bgt s.ppu.ctrl1) tile (fineY v)
  { lo := ppuRead s plane
    hi := ppuRead s (plane + 8#16)
    pal := (attr >>> atShift v).setWidth 2 }

/-- Column `c` of a background tile (R215, R218, R219). -/
def bgPixel (s : State) (tile : TileRow) (c : Nat) : Pixel :=
  let ci := colorIndex tile.lo tile.hi c
  { color := ppuRead s (bgColorAddr tile.pal ci), bgOpaque := decide (ci ≠ 0#2) }

/-- The columns a tile draws when its first is `fx` and the next pixel is `px` (R211): `fx` to 7, but
none past pixel 255. -/
def bgColumns (px fx : Nat) : List Nat :=
  (([0, 1, 2, 3, 4, 5, 6, 7] : List Nat).drop fx).take (Config.renderWidth - px)

/-- The tile loop of R211 from pixel `px`, column `fx` and address `v`: the pixels it writes from `px`
on, and `v` after it. `n` bounds the tiles; 33 are enough (R211). -/
def bgTiles (s : State) : Nat → Nat → Nat → VramAddr → List Pixel × VramAddr
  | 0, _, _, v => ([], v)
  | n + 1, px, fx, v =>
    if px < Config.renderWidth then
      let cols := bgColumns px fx
      let rest := bgTiles s n (px + cols.length) 0 (incCoarseX v)
      (cols.map (bgPixel s (bgTile s v)) ++ rest.1, rest.2)
    else ([], v)

/-- `BackgroundPass()` over a row (R211): its pixels replace the row's, from pixel 0. -/
def backgroundPass (s : State) (row : List Pixel) : List Pixel × VramAddr :=
  let drawn := bgTiles s 33 0 s.ppu.x.toNat s.ppu.v
  (drawn.1 ++ row.drop drawn.1.length, drawn.2)

/-! ### Sprite pass (R220 to R229) -/

/-- A sprite entry of OAM (10_state.md R26). -/
structure Sprite where
  y : Byte
  tile : Byte
  attr : Byte
  x : Byte
  deriving DecidableEq, Repr

/-- Entry `i` occupies `oam[4i .. 4i+3]` (10_state.md R26). -/
def oamEntry (oam : Memory) (i : Nat) : Sprite where
  y := cellRead oam (4 * i)
  tile := cellRead oam (4 * i + 1)
  attr := cellRead oam (4 * i + 2)
  x := cellRead oam (4 * i + 3)

/-- `InRange(sl, Y)`: `0 ≤ sl − (Y + 1) ≤ 7` on integers (R221). -/
def inRange (sl : Nat) (y : Byte) : Bool :=
  decide (y.toNat + 1 ≤ sl) && decide (sl ≤ y.toNat + 8)

/-- What the pass carries: the count drawn, the row and the two flags it can set (R220, R222, R229). -/
structure SpriteScan where
  drawn : Nat
  row : List Pixel
  overflow : Bool
  s0hit : Bool
  deriving DecidableEq, Repr

/-- The tile row of a sprite after a vertical flip (R224). -/
def spriteRow (sl : Nat) (e : Sprite) : BitVec 3 :=
  let r0 := sl - (e.y.toNat + 1)
  BitVec.ofNat 3 (if attrVflip e.attr then 7 - r0 else r0)

/-- The colour index of a sprite's screen column `X + k` (R225, R226). -/
def spriteColorIndex (s : State) (sl : Nat) (e : Sprite) (k : Nat) : BitVec 2 :=
  let plane := patAddr (ctrl1Spt s.ppu.ctrl1) e.tile (spriteRow sl e)
  colorIndex (ppuRead s plane) (ppuRead s (plane + 8#16)) (if attrHflip e.attr then 7 - k else k)

/-- One column of `DrawSprite` (R226 to R229). Columns past 255 and transparent pixels are skipped. -/
def drawSpritePixel (s : State) (sl i : Nat) (e : Sprite) (acc : SpriteScan) (k : Nat) :
    SpriteScan :=
  let px := e.x.toNat + k
  let ci := spriteColorIndex s sl e k
  match acc.row[px]? with
  | none => acc
  | some under =>
    if ci = 0#2 then acc
    else
      { acc with
        s0hit := acc.s0hit || (decide (i = 0) && decide (px ≤ 254) && under.bgOpaque)
        row :=
          if attrBehind e.attr && under.bgOpaque then acc.row
          else acc.row.set px
            { under with color := ppuRead s (spriteColorAddr (attrSpal e.attr) ci) } }

/-- `DrawSprite` (R223 to R229). -/
def drawSprite (s : State) (sl i : Nat) (e : Sprite) (acc : SpriteScan) : SpriteScan :=
  ([0, 1, 2, 3, 4, 5, 6, 7] : List Nat).foldl (drawSpritePixel s sl i e) acc

/-- The loop of R220 over the entries below `n`, from the highest down, stopping at the cap (R222). -/
def spriteScan (s : State) (sl : Nat) : Nat → SpriteScan → SpriteScan
  | 0, acc => acc
  | i + 1, acc =>
    let e := oamEntry s.oam i
    if inRange sl e.y then
      if acc.drawn = Config.spriteCap then { acc with overflow := true }
      else spriteScan s sl i (drawSprite s sl i e { acc with drawn := acc.drawn + 1 })
    else spriteScan s sl i acc

/-- `SpritePass(sl)` over a row (R220), with the flags as they stand. -/
def spritePass (s : State) (sl : Nat) (row : List Pixel) : SpriteScan :=
  spriteScan s sl Config.oamEntries
    { drawn := 0, row := row, overflow := s.ppu.overflow, s0hit := s.ppu.s0hit }

/-! ### Output and the render action (R210, R230, R231) -/

/-- The `SetPixel` events of a row, left to right from column `x` (R230). -/
def rowEvents (sl : Nat) : Nat → List Pixel → List Event
  | _, [] => []
  | x, p :: rest => .setPixel x sl p.color :: rowEvents sl (x + 1) rest

/-- `Emit(sl)` (R230). -/
def emitRow (sl : Nat) (row : List Pixel) : List Event :=
  .preRender sl :: rowEvents sl 0 row ++ [.postRender sl]

/-- The row before the passes: the backdrop, nothing opaque (R231). -/
def initRow (s : State) : List Pixel :=
  List.replicate Config.renderWidth { color := ppuRead s 0x3F00#16, bgOpaque := false }

/-- The row and `v` after the background pass, when enabled (R210). -/
def renderBackground (s : State) : List Pixel × VramAddr :=
  if ctrl2Bge s.ppu.ctrl2 then backgroundPass s (initRow s) else (initRow s, s.ppu.v)

/-- The row and flags after the sprite pass, when enabled (R210). -/
def renderSprites (s : State) (sl : Nat) (row : List Pixel) : SpriteScan :=
  if ctrl2Spe s.ppu.ctrl2 then spritePass s sl row
  else { drawn := 0, row := row, overflow := s.ppu.overflow, s0hit := s.ppu.s0hit }

/-- `Render(sl)` (R210). -/
def render (sl : Nat) (s : State) : State :=
  let bg := renderBackground s
  let sp := renderSprites s sl bg.1
  s.setPpu { s.ppu with
    v := bg.2
    overflow := sp.overflow
    s0hit := sp.s0hit
    events := s.ppu.events ++ emitRow sl sp.row }

end Sys2Proof.Machine
end

