-- ==== Sys2Proof/Machine/Timing.lean ====
section
/-! DEFINITION. The timing state machine (42_timing.md): the decomposition of the cycle counter and the
six rows of the tick table, in the table's order. -/

namespace Sys2Proof.Machine

/-- `offset` (R180). -/
def tickOffset (cyc : Nat) : Nat := cyc % Config.offsets
/-- `scanline` (R180). -/
def tickScanline (cyc : Nat) : Nat := cyc / Config.offsets % Config.scanlines
/-- `frame` (R180). -/
def tickFrame (cyc : Nat) : Nat := cyc / Config.frameTicks

/-- `Guard(sl)` (R183). -/
def scrollGuard (s : State) (sl : Nat) : Bool :=
  match s.params.guard with
  | .literal => true
  | .rendering =>
    (ctrl2Bge s.ppu.ctrl2 || ctrl2Spe s.ppu.ctrl2)
      && (decide (sl < Config.visibleLines) || decide (sl = Config.prerenderLine))

/-- Row 1: render the scanline (R184). -/
def rowRender (sl off : Nat) (s : State) : State :=
  if off = 255 ∧ sl < Config.visibleLines ∧ s.ppu.vblank = false ∧ ctrl2Bge s.ppu.ctrl2 = true then
    render sl s
  else s

/-- Row 2: the vertical increment (R185). -/
def rowIncY (sl off : Nat) (s : State) : State :=
  if off = 256 ∧ scrollGuard s sl = true then s.setPpu { s.ppu with v := incY s.ppu.v } else s

/-- Row 3: the horizontal reload (R186). -/
def rowHorizontal (sl off : Nat) (s : State) : State :=
  if off = 257 ∧ scrollGuard s sl = true then
    s.setPpu { s.ppu with v := reloadHorizontal s.ppu.v s.ppu.t }
  else s

/-- Row 4: the pre-render vertical reload (R187). -/
def rowVertical (sl off : Nat) (s : State) : State :=
  if sl = Config.prerenderLine ∧ 280 ≤ off ∧ off ≤ 304 ∧ scrollGuard s sl = true then
    s.setPpu { s.ppu with v := reloadVertical s.ppu.v s.ppu.t }
  else s

/-- Row 5: vblank start (R188). The frame-pacing wait has no state effect (R193). -/
def rowVblankStart (sl off : Nat) (s : State) : State :=
  if sl = Config.vblankStartLine ∧ off = 0 then s.setPpu (vblankStart s.ppu) else s

/-- Row 6: vblank end (R189). -/
def rowVblankEnd (sl off : Nat) (s : State) : State :=
  if sl = Config.vblankEndLine ∧ off = 0 then s.setPpu (vblankEnd s.ppu) else s

/-- `TickActions(sl, off)`: the six rows in order (R182). -/
def tickActions (sl off : Nat) (s : State) : State :=
  rowVblankEnd sl off (rowVblankStart sl off (rowVertical sl off
    (rowHorizontal sl off (rowIncY sl off (rowRender sl off s)))))

/-- One cycle (R181): the actions of the counter's value, then the counter. -/
def tickEffect (s : State) : State :=
  let acted := tickActions (tickScanline s.ppu.cyc) (tickOffset s.ppu.cyc) s
  acted.setPpu { acted.ppu with cyc := acted.ppu.cyc + 1 }

end Sys2Proof.Machine
end

