-- ==== Sys2Proof/Machine/Control.lean ====
section
/-! DEFINITION. The control port: `TICK` (42_timing.md R181) and `NMI_ACK` (60_exceptions.md R256). -/

namespace Sys2Proof.Machine

/-- R181. -/
def execTick (s : State) : Host.Outcome State Fault Refusal := transact tickEffect s

/-- R256. -/
def execNmiAck (s : State) : Host.Outcome State Fault Refusal :=
  transact (fun s => s.setPpu (nmiCleared s.ppu)) s

end Sys2Proof.Machine
end

