-- ==== Sys2Proof/Machine/CpuPort.lean ====
section
/-! DEFINITION. The CPU-space port (41_mapper_access.md R151 to R156, R161 to R164). -/

namespace Sys2Proof.Machine

/-- R151: nothing is decoded below 0x6000. -/
def execCpuRdUnmappedLo (_a : Addr) (s : State) : Host.Outcome State Fault Refusal :=
  transactRead (fun s => (0x00, s)) s

/-- R151. -/
def execCpuRdUnmappedHi (_a : Addr) (s : State) : Host.Outcome State Fault Refusal :=
  transactRead (fun s => (0x00, s)) s

/-- R152. -/
def execCpuRdSram (a : Addr) (s : State) : Host.Outcome State Fault Refusal :=
  transactRead (fun s => (sramRead s a, s)) s

/-- R153. -/
def execCpuRdPrgLo (a : Addr) (s : State) : Host.Outcome State Fault Refusal :=
  transactRead (fun s => (prgRead s (lowerBank s) (a.toNat - 0x8000), s)) s

/-- R154. -/
def execCpuRdPrgHi (a : Addr) (s : State) : Host.Outcome State Fault Refusal :=
  transactRead (fun s => (prgRead s (upperBank s) (a.toNat - 0xC000), s)) s

/-- R155: no effect. -/
def execCpuWrUnmappedLo (_a : Addr) (_d : Byte) (s : State) : Host.Outcome State Fault Refusal :=
  transact (fun s => s) s

/-- R155. -/
def execCpuWrUnmappedHi (_a : Addr) (_d : Byte) (s : State) : Host.Outcome State Fault Refusal :=
  transact (fun s => s) s

/-- R156. -/
def execCpuWrSram (a : Addr) (d : Byte) (s : State) : Host.Outcome State Fault Refusal :=
  transact (fun s => sramWrite s a d) s

/-- R161: `SerialWrite` on MMC1, no effect on NoMapper. -/
def execCpuWrMapCtrl (a : Addr) (d : Byte) (s : State) : Host.Outcome State Fault Refusal :=
  transact (fun s => mapperWrite s a d) s

/-- R162. -/
def execCpuWrMapChr0 (a : Addr) (d : Byte) (s : State) : Host.Outcome State Fault Refusal :=
  transact (fun s => mapperWrite s a d) s

/-- R163. -/
def execCpuWrMapChr1 (a : Addr) (d : Byte) (s : State) : Host.Outcome State Fault Refusal :=
  transact (fun s => mapperWrite s a d) s

/-- R164. -/
def execCpuWrMapPrg (a : Addr) (d : Byte) (s : State) : Host.Outcome State Fault Refusal :=
  transact (fun s => mapperWrite s a d) s

end Sys2Proof.Machine
end

