-- ==== Sys2Proof/Machine/PpuBus.lean ====
section
/-! DEFINITION. The PPU-bus port (41_mapper_access.md R165 to R170). The address is reduced to 14 bits
at the access (20_memory.md R63). -/

namespace Sys2Proof.Machine

/-- `addr & 0x3FFF` (R63). -/
def busAddr (addr : Addr) : Addr := addr &&& 0x3FFF#16

/-- R165. -/
def execPbRdPat (addr : Addr) (s : State) : Host.Outcome State Fault Refusal :=
  transactRead (fun s => (readLoc s (chrLocate s (busAddr addr)), s)) s

/-- R166. -/
def execPbRdNt (addr : Addr) (s : State) : Host.Outcome State Fault Refusal :=
  transactRead (fun s => (readLoc s (ntLocate s (busAddr addr)), s)) s

/-- R167. -/
def execPbRdPal (addr : Addr) (s : State) : Host.Outcome State Fault Refusal :=
  transactRead (fun s => (readLoc s (palLocate (busAddr addr)), s)) s

/-- R168. -/
def execPbWrPat (addr : Addr) (d : Byte) (s : State) : Host.Outcome State Fault Refusal :=
  transact (fun s => writeLoc s (chrLocate s (busAddr addr)) d) s

/-- R169. -/
def execPbWrNt (addr : Addr) (d : Byte) (s : State) : Host.Outcome State Fault Refusal :=
  transact (fun s => writeLoc s (ntLocate s (busAddr addr)) d) s

/-- R170: all 8 bits are stored. -/
def execPbWrPal (addr : Addr) (d : Byte) (s : State) : Host.Outcome State Fault Refusal :=
  transact (fun s => writeLoc s (palLocate (busAddr addr)) d) s

end Sys2Proof.Machine
end

