-- ==== Sys2Proof/Machine/PpuRead.lean ====
section
/-! DEFINITION. The PPU register reads (40_ppu_registers.md R130 to R137). Six of the eight registers
are write-only and reading one halts the block (60_exceptions.md R253). -/

namespace Sys2Proof.Machine

/-- R130. -/
def execPpuRdCtrl1 (s : State) : Host.Outcome State Fault Refusal :=
  transact (raiseFault (.writeOnlyRegisterRead 0#3)) s

/-- R131. -/
def execPpuRdCtrl2 (s : State) : Host.Outcome State Fault Refusal :=
  transact (raiseFault (.writeOnlyRegisterRead 1#3)) s

/-- R132: the flags, then vblank and the toggle cleared. -/
def execPpuRdStatus (s : State) : Host.Outcome State Fault Refusal :=
  transactRead (fun s => (statusByte s.ppu, s.setPpu (afterStatusRead s.ppu))) s

/-- R133. -/
def execPpuRdOamAddr (s : State) : Host.Outcome State Fault Refusal :=
  transact (raiseFault (.writeOnlyRegisterRead 3#3)) s

/-- R134. -/
def execPpuRdOamData (s : State) : Host.Outcome State Fault Refusal :=
  transact (raiseFault (.writeOnlyRegisterRead 4#3)) s

/-- R135. -/
def execPpuRdScroll (s : State) : Host.Outcome State Fault Refusal :=
  transact (raiseFault (.writeOnlyRegisterRead 5#3)) s

/-- R136. -/
def execPpuRdAddr (s : State) : Host.Outcome State Fault Refusal :=
  transact (raiseFault (.writeOnlyRegisterRead 6#3)) s

/-- R137: the latch; then the latch refilled from `v`, then `v` advanced (R139). -/
def execPpuRdData (s : State) : Host.Outcome State Fault Refusal :=
  transactRead (fun s =>
    (s.ppu.rdbuf,
      s.setPpu (stepV { s.ppu with rdbuf := ppuRead s (vramBusAddr s.ppu.v) }))) s

end Sys2Proof.Machine
end

