-- ==== Sys2Proof/Machine/PpuWrite.lean ====
section
/-! DEFINITION. The PPU register writes (40_ppu_registers.md R120 to R129) and the index out of range
(R138). -/

namespace Sys2Proof.Machine

/-- R120. -/
def execPpuWrCtrl1 (d : Byte) (s : State) : Host.Outcome State Fault Refusal :=
  transact (fun s => s.setPpu { s.ppu with ctrl1 := d, t := foldNametable s.ppu.t d }) s

/-- R121. -/
def execPpuWrCtrl2 (d : Byte) (s : State) : Host.Outcome State Fault Refusal :=
  transact (fun s => s.setPpu { s.ppu with ctrl2 := d }) s

/-- R122: the write is ignored. -/
def execPpuWrStatus (_d : Byte) (s : State) : Host.Outcome State Fault Refusal :=
  transact (fun s => s) s

/-- R123. -/
def execPpuWrOamAddr (d : Byte) (s : State) : Host.Outcome State Fault Refusal :=
  transact (fun s => s.setPpu { s.ppu with oamAddr := d }) s

/-- R124: the cursor wraps modulo 256. -/
def execPpuWrOamData (d : Byte) (s : State) : Host.Outcome State Fault Refusal :=
  transact (fun s =>
    (s.setOam (cellWrite s.oam s.ppu.oamAddr.toNat d)).setPpu
      { s.ppu with oamAddr := s.ppu.oamAddr + 1#8 }) s

/-- R125 in the first phase, R126 in the second. -/
def execPpuWrScroll (d : Byte) (s : State) : Host.Outcome State Fault Refusal :=
  transact (fun s =>
    if s.ppu.w = false then
      s.setPpu { s.ppu with t := foldScrollX s.ppu.t d, x := scrollFineX d, w := true }
    else s.setPpu { s.ppu with t := foldScrollY s.ppu.t d, w := false }) s

/-- R127 in the first phase, R128 in the second. -/
def execPpuWrAddr (d : Byte) (s : State) : Host.Outcome State Fault Refusal :=
  transact (fun s =>
    if s.ppu.w = false then s.setPpu { s.ppu with t := foldAddrHigh s.ppu.t d, w := true }
    else
      s.setPpu { s.ppu with t := foldAddrLow s.ppu.t d, v := foldAddrLow s.ppu.t d, w := false }) s

/-- R129: write through at `v & 0x3FFF`, then advance `v` (R139). -/
def execPpuWrData (d : Byte) (s : State) : Host.Outcome State Fault Refusal :=
  transact (fun s => (ppuWrite s (vramBusAddr s.ppu.v) d).setPpu (stepV s.ppu)) s

/-- R138: any access with a register index of 8 or more halts the block. -/
def execPpuBadIndex (_rw : Bool) (idx : Addr) (_d : Byte) (s : State) :
    Host.Outcome State Fault Refusal :=
  transact (raiseFault (.registerIndexOutOfRange idx)) s

end Sys2Proof.Machine
end

