-- ==== Sys2Proof/Machine/Dispatch.lean ====
section
/-! DEFINITION. The one dispatch: a transaction to its meaning, one arm a constructor. -/

namespace Sys2Proof.Machine

def exec (i : Instr) (s : State) : Host.Outcome State Fault Refusal :=
  match i with
  | .ppuWrCtrl1 d => Sys2Proof.Machine.execPpuWrCtrl1 d s
  | .ppuWrCtrl2 d => Sys2Proof.Machine.execPpuWrCtrl2 d s
  | .ppuWrStatus d => Sys2Proof.Machine.execPpuWrStatus d s
  | .ppuWrOamAddr d => Sys2Proof.Machine.execPpuWrOamAddr d s
  | .ppuWrOamData d => Sys2Proof.Machine.execPpuWrOamData d s
  | .ppuWrScroll d => Sys2Proof.Machine.execPpuWrScroll d s
  | .ppuWrAddr d => Sys2Proof.Machine.execPpuWrAddr d s
  | .ppuWrData d => Sys2Proof.Machine.execPpuWrData d s
  | .ppuRdCtrl1 => Sys2Proof.Machine.execPpuRdCtrl1 s
  | .ppuRdCtrl2 => Sys2Proof.Machine.execPpuRdCtrl2 s
  | .ppuRdStatus => Sys2Proof.Machine.execPpuRdStatus s
  | .ppuRdOamAddr => Sys2Proof.Machine.execPpuRdOamAddr s
  | .ppuRdOamData => Sys2Proof.Machine.execPpuRdOamData s
  | .ppuRdScroll => Sys2Proof.Machine.execPpuRdScroll s
  | .ppuRdAddr => Sys2Proof.Machine.execPpuRdAddr s
  | .ppuRdData => Sys2Proof.Machine.execPpuRdData s
  | .ppuBadIndex rw idx d => Sys2Proof.Machine.execPpuBadIndex rw idx d s
  | .cpuRdUnmappedLo a => Sys2Proof.Machine.execCpuRdUnmappedLo a s
  | .cpuRdUnmappedHi a => Sys2Proof.Machine.execCpuRdUnmappedHi a s
  | .cpuRdSram a => Sys2Proof.Machine.execCpuRdSram a s
  | .cpuRdPrgLo a => Sys2Proof.Machine.execCpuRdPrgLo a s
  | .cpuRdPrgHi a => Sys2Proof.Machine.execCpuRdPrgHi a s
  | .cpuWrUnmappedLo a d => Sys2Proof.Machine.execCpuWrUnmappedLo a d s
  | .cpuWrUnmappedHi a d => Sys2Proof.Machine.execCpuWrUnmappedHi a d s
  | .cpuWrSram a d => Sys2Proof.Machine.execCpuWrSram a d s
  | .cpuWrMapCtrl a d => Sys2Proof.Machine.execCpuWrMapCtrl a d s
  | .cpuWrMapChr0 a d => Sys2Proof.Machine.execCpuWrMapChr0 a d s
  | .cpuWrMapChr1 a d => Sys2Proof.Machine.execCpuWrMapChr1 a d s
  | .cpuWrMapPrg a d => Sys2Proof.Machine.execCpuWrMapPrg a d s
  | .pbRdPal a => Sys2Proof.Machine.execPbRdPal a s
  | .pbRdNt a => Sys2Proof.Machine.execPbRdNt a s
  | .pbRdPat a => Sys2Proof.Machine.execPbRdPat a s
  | .pbWrPal a d => Sys2Proof.Machine.execPbWrPal a d s
  | .pbWrNt a d => Sys2Proof.Machine.execPbWrNt a d s
  | .pbWrPat a d => Sys2Proof.Machine.execPbWrPat a d s
  | .tick => Sys2Proof.Machine.execTick s
  | .nmiAck => Sys2Proof.Machine.execNmiAck s

end Sys2Proof.Machine
end

