-- ==== Sys2Proof/Machine/Step.lean ====
section
/-! DEFINITION. One step: take the oldest issued transaction word, decode it, run it. -/

namespace Sys2Proof.Machine

/-- One transaction (00_scope.md R2, R11). With nothing issued the block does nothing (log 3); a word
the decoder refuses is no transaction (30_encoding.md R106, log 5). -/
def step (s : State) : Host.Outcome State Fault Refusal :=
  match fetchWord s with
  | none => .next s
  | some (w, rest) =>
    match decodeWord w with
    | .error why => .refused (.invalidWord w why)
    | .ok i => exec i rest

/-- The host issues the word as the block's next transaction (log 1). -/
def State.withFetchWord (s : State) (_nbits w : Nat) : State :=
  s.setPending (BitVec.ofNat 32 w :: s.pending)

end Sys2Proof.Machine
end

