-- ==== Sys2Proof/Machine/Assembler.lean ====
section
/-! DEFINITION. The textual form of a transaction and the pseudo-transactions (30_encoding.md R108,
R109): a line of text to the words the host issues. The notation is the spec's own (decision D48); what
it leaves to the reader of a line is log 15. -/

namespace Sys2Proof.Machine

/-- A line of R108 or a pseudo-transaction of R109. -/
inductive AsmLine where
  | wrPpu (i : Addr) (d : Byte)
  | rdPpu (i : Addr)
  | wrCpu (a : Addr) (d : Byte)
  | rdCpu (a : Addr)
  | wrVram (a : Addr) (d : Byte)
  | rdVram (a : Addr)
  | tick
  | nmiack
  | ticks (n : Nat)
  | setv (a : Addr)
  | scroll (sx sy : Byte)
  | vfill (d : Byte) (n : Nat)
  | oam (i y t at' x : Byte)
  | mmc1 (a : Addr) (v : Byte)
  | mmc1reset (a : Addr)
  deriving DecidableEq, Repr

/-- A PR write word. -/
def wrPpuWord (i : Addr) (d : Byte) : TransactionWord := packWord 0 true i d

/-- A CP write word. -/
def wrCpuWord (a : Addr) (d : Byte) : TransactionWord := packWord 1 true a d

/-- The words a line stands for (R108, R109), in the order the host issues them. R109 does not say what
`4*i` is when `i` is 64 or more (OAM has entries 0 to 63): `oam i` takes any byte and writes `4*i` modulo
256 (DESIGN CHOICE, log 15). -/
def assemble : AsmLine → List TransactionWord
  | .wrPpu i d => [wrPpuWord i d]
  | .rdPpu i => [packWord 0 false i 0]
  | .wrCpu a d => [wrCpuWord a d]
  | .rdCpu a => [packWord 1 false a 0]
  | .wrVram a d => [packWord 2 true a d]
  | .rdVram a => [packWord 2 false a 0]
  | .tick => [encode .tick]
  | .nmiack => [encode .nmiAck]
  | .ticks n => List.replicate n (encode .tick)
  | .setv a =>
    [wrPpuWord 6 ((a >>> 8).setWidth 8 &&& 0x3F#8), wrPpuWord 6 (a.setWidth 8)]
  | .scroll sx sy => [wrPpuWord 5 sx, wrPpuWord 5 sy]
  | .vfill d n => List.replicate n (wrPpuWord 7 d)
  | .oam i y t at' x =>
    [wrPpuWord 3 (4#8 * i), wrPpuWord 4 y, wrPpuWord 4 t, wrPpuWord 4 at', wrPpuWord 4 x]
  | .mmc1 a v =>
    ([0, 1, 2, 3, 4] : List Nat).map (fun k => wrCpuWord a ((v >>> k) &&& 1#8))
  | .mmc1reset a => [wrCpuWord a 0x80#8]

/-- One CPU cycle of the host's driver: `TICKS_PER_CPU_CYCLE` ticks (90_conflicts.md C5, log 13). -/
def cpuCycle : List TransactionWord := assemble (.ticks Config.ticksPerCpuCycle)

/-! ### Reading a line of text -/

inductive Token where
  | word (cs : List Char)
  | lbracket
  | rbracket
  | comma
  | arrow
  deriving DecidableEq, Repr

/-- The word read so far, if there is one. -/
def closeWord (acc : List Char) : List Token := if acc = [] then [] else [.word acc.reverse]

/-- The tokens of a line; `acc` is the word being read, reversed. -/
def tokens : List Char → List Char → List Token
  | acc, [] => closeWord acc
  | acc, '-' :: '>' :: rest => closeWord acc ++ .arrow :: tokens [] rest
  | acc, c :: rest =>
    if c = ' ' then closeWord acc ++ tokens [] rest
    else if c = '[' then closeWord acc ++ .lbracket :: tokens [] rest
    else if c = ']' then closeWord acc ++ .rbracket :: tokens [] rest
    else if c = ',' then closeWord acc ++ .comma :: tokens [] rest
    else tokens (c :: acc) rest

/-- The value of a hexadecimal digit. -/
def hexDigit (c : Char) : Option Nat :=
  if '0'.toNat ≤ c.toNat ∧ c.toNat ≤ '9'.toNat then some (c.toNat - '0'.toNat)
  else if 'a'.toNat ≤ c.toNat ∧ c.toNat ≤ 'f'.toNat then some (c.toNat - 'a'.toNat + 10)
  else if 'A'.toNat ≤ c.toNat ∧ c.toNat ≤ 'F'.toNat then some (c.toNat - 'A'.toNat + 10)
  else none

/-- Digits in a base, after `n`. -/
def readDigits (base : Nat) : Nat → List Char → Option Nat
  | n, [] => some n
  | n, c :: rest =>
    match hexDigit c with
    | none => none
    | some k => if k < base then readDigits base (n * base + k) rest else none

/-- A number, hexadecimal (`0x..`) or decimal (R108). -/
def readNumber : List Char → Option Nat
  | [] => none
  | '0' :: 'x' :: c :: rest => readDigits 16 0 (c :: rest)
  | c :: rest => readDigits 10 0 (c :: rest)

/-- A number that fits in 8 bits. -/
def readByte (cs : List Char) : Option Byte :=
  (readNumber cs).bind fun n => if n < 256 then some (BitVec.ofNat 8 n) else none

/-- A number that fits in 16 bits. -/
def readAddr (cs : List Char) : Option Addr :=
  (readNumber cs).bind fun n => if n < 65536 then some (BitVec.ofNat 16 n) else none

/-- The register names of R108. -/
def registerNames : List (List Char × Addr) :=
  [(['C', 'T', 'R', 'L', '1'], 0), (['C', 'T', 'R', 'L', '2'], 1),
   (['S', 'T', 'A', 'T', 'U', 'S'], 2), (['O', 'A', 'M', 'A', 'D', 'D', 'R'], 3),
   (['O', 'A', 'M', 'D', 'A', 'T', 'A'], 4), (['S', 'C', 'R', 'O', 'L', 'L'], 5),
   (['A', 'D', 'D', 'R'], 6), (['D', 'A', 'T', 'A'], 7)]

/-- A register index, by name or number (R108). -/
def readIndex (cs : List Char) : Option Addr :=
  match registerNames.lookup cs with
  | some i => some i
  | none => readAddr cs

/-- A line without the `-> v` of a listing (R108, R109). -/
def parseTokens : List Token → Option AsmLine
  | [.word ['w', 'r'], .word ['p', 'p', 'u'], .lbracket, .word i, .rbracket, .comma, .word d] =>
    (readIndex i).bind fun i => (readByte d).map (.wrPpu i)
  | [.word ['r', 'd'], .word ['p', 'p', 'u'], .lbracket, .word i, .rbracket] =>
    (readIndex i).map .rdPpu
  | [.word ['w', 'r'], .word ['c', 'p', 'u'], .lbracket, .word a, .rbracket, .comma, .word d] =>
    (readAddr a).bind fun a => (readByte d).map (.wrCpu a)
  | [.word ['r', 'd'], .word ['c', 'p', 'u'], .lbracket, .word a, .rbracket] =>
    (readAddr a).map .rdCpu
  | [.word ['w', 'r'], .word ['v', 'r', 'a', 'm'], .lbracket, .word a, .rbracket, .comma,
      .word d] =>
    (readAddr a).bind fun a => (readByte d).map (.wrVram a)
  | [.word ['r', 'd'], .word ['v', 'r', 'a', 'm'], .lbracket, .word a, .rbracket] =>
    (readAddr a).map .rdVram
  | [.word ['t', 'i', 'c', 'k']] => some .tick
  | [.word ['n', 'm', 'i', 'a', 'c', 'k']] => some .nmiack
  | [.word ['t', 'i', 'c', 'k'], .word n] => (readNumber n).map .ticks
  | [.word ['s', 'e', 't', 'v'], .word a] => (readAddr a).map .setv
  | [.word ['s', 'c', 'r', 'o', 'l', 'l'], .word sx, .comma, .word sy] =>
    (readByte sx).bind fun sx => (readByte sy).map (.scroll sx)
  | [.word ['v', 'f', 'i', 'l', 'l'], .word d, .comma, .word n] =>
    (readByte d).bind fun d => (readNumber n).map (.vfill d)
  | [.word ['o', 'a', 'm'], .word i, .comma, .word y, .comma, .word t, .comma, .word at', .comma,
      .word x] =>
    (readByte i).bind fun i => (readByte y).bind fun y => (readByte t).bind fun t =>
      (readByte at').bind fun at' => (readByte x).map (.oam i y t at')
  | [.word ['m', 'm', 'c', '1'], .word a, .comma, .word v] =>
    (readAddr a).bind fun a => (readByte v).map (.mmc1 a)
  | [.word ['m', 'm', 'c', '1', 'r', 'e', 's', 'e', 't'], .word a] => (readAddr a).map .mmc1reset
  | _ => none

/-- A line of a listing: the line, and the value after `->` where a read gives one (R108). -/
def parseLine (text : List Char) : Option (AsmLine × Option Byte) :=
  let ts := tokens [] text
  match ts.reverse with
  | .word v :: .arrow :: before =>
    (parseTokens before.reverse).bind fun l => (readByte v).map fun b => (l, some b)
  | _ => (parseTokens ts).map fun l => (l, none)

end Sys2Proof.Machine
end

