-- ==== Sys2Proof/Safety.lean ====
section
/-! DEFINITION. The terms claims use: a block that runs, a state that is well formed, and a run that
stays clear of faults. -/

namespace Sys2Proof.Machine

/-- The block is not halted (10_state.md R44). -/
abbrev State.Running (s : State) : Prop := s.fault = none

/-- Every byte a ROM buffer lists lies inside it. -/
def romWf (r : Rom) : Bool := Memory.wf r.size r.bytes

/-- The serial fill count between transactions is 0 to 4 (10_state.md R43). -/
def mapperWf : Mapper → Bool
  | .noMapper _ => true
  | .mmc1 m => decide (m.cnt ≤ 4)

/-- Every memory of the block is in canonical form within the size the spec gives it. -/
def memoriesWf (s : State) : Bool :=
  Memory.wf Config.oamBytes s.oam && Memory.wf Config.ntRamSize s.ntRam
    && Memory.wf Config.paletteBytes s.palRam && Memory.wf Config.chrRamSize s.chrRam
    && Memory.wf Config.prgRamSize s.prgRam && s.prg.all romWf && s.chr.all romWf

/-- The configuration passes the checks of 60_exceptions.md R252 that a state can show. -/
def configWf (s : State) : Bool :=
  decide (s.prgRamUnits ≤ 1)
    && s.prg.all (fun r => decide (r.size = Config.prgBankSize))
    && s.chr.all (fun r => decide (r.size = Config.chrBankSize))
    && (match s.mapper with
        | .noMapper _ => decide (s.chr.length ≤ 1)
        | .mmc1 _ => decide (s.prg.length ≠ 0))

/-- The fault is one its raiser can give (60_exceptions.md R251 to R255). -/
def faultWf : Option Fault → Bool
  | none => true
  | some (.configInvalid failed) => decide (failed ≠ [])
  | some (.writeOnlyRegisterRead i) => decide (i ≠ 2#3) && decide (i ≠ 7#3)
  | some (.registerIndexOutOfRange i) => decide (8 ≤ i.toNat)
  | some (.unreachableMode _ _) => false

/-- The block was halted by its construction (70_reset_and_hazards.md R280). -/
def constructionFailed : Option Fault → Bool
  | some (.configInvalid _) => true
  | _ => false

/-- The invariant of the block: memories in form, the fill count in range, a fault that a rule raises,
and a configuration the construction checks accept unless construction failed. -/
def State.wf (s : State) : Bool :=
  memoriesWf s && mapperWf s.mapper && faultWf s.fault
    && (configWf s || constructionFailed s.fault)

/-- The loader's buffers and RAM_INIT, as data, hold bytes inside their sizes only. -/
def inputsWf (l : Loader) (r : RamInit) : Bool :=
  Memory.wf Config.oamBytes r.oam && Memory.wf Config.ntRamSize r.ntRam
    && Memory.wf Config.paletteBytes r.palRam && Memory.wf Config.chrRamSize r.chrRam
    && Memory.wf Config.prgRamSize r.prgRam && l.prg.all romWf && l.chr.all romWf

/-- `n` steps of the block. -/
abbrev blockRun (n : Nat) (s : State) : Host.Outcome State Fault Refusal :=
  Host.Core.run Sys2Proof.core n s

/-- A run of `n` steps that ends in a state, with the block not halted (60_exceptions.md R250: a fault
"refutes any claim of correct execution"). -/
def SafeRun (n : Nat) (s t : State) : Prop := blockRun n s = .next t ∧ t.Running

/-! ### Terms about the encoding -/

/-- The rows whose DATA bits are no operand (30_encoding.md R100, R105). -/
def dataIgnored : Instr → Bool
  | .ppuRdCtrl1 | .ppuRdCtrl2 | .ppuRdStatus | .ppuRdOamAddr | .ppuRdOamData | .ppuRdScroll
  | .ppuRdAddr | .ppuRdData => true
  | .cpuRdUnmappedLo _ | .cpuRdUnmappedHi _ | .cpuRdSram _ | .cpuRdPrgLo _ | .cpuRdPrgHi _ => true
  | .pbRdPal _ | .pbRdNt _ | .pbRdPat _ => true
  | .tick | .nmiAck => true
  | .ppuWrCtrl1 _ | .ppuWrCtrl2 _ | .ppuWrStatus _ | .ppuWrOamAddr _ | .ppuWrOamData _
  | .ppuWrScroll _ | .ppuWrAddr _ | .ppuWrData _ | .ppuBadIndex _ _ _ => false
  | .cpuWrUnmappedLo _ _ | .cpuWrUnmappedHi _ _ | .cpuWrSram _ _ | .cpuWrMapCtrl _ _
  | .cpuWrMapChr0 _ _ | .cpuWrMapChr1 _ _ | .cpuWrMapPrg _ _ => false
  | .pbWrPal _ _ | .pbWrNt _ _ | .pbWrPat _ _ => false

/-- spec/opcode_table.json, row by row: mask and match. Rows that overlap stand in the order of their
`decode_priority` (30_encoding.md R102, R104, R107). -/
def opcodeRows : List (TransactionWord × TransactionWord) :=
  [(0xFFFFFF00#32, 0x20000000#32), (0xFFFFFF00#32, 0x20000100#32),
   (0xFFFFFF00#32, 0x20000200#32), (0xFFFFFF00#32, 0x20000300#32),
   (0xFFFFFF00#32, 0x20000400#32), (0xFFFFFF00#32, 0x20000500#32),
   (0xFFFFFF00#32, 0x20000600#32), (0xFFFFFF00#32, 0x20000700#32),
   (0xFFFFFF00#32, 0x00000000#32), (0xFFFFFF00#32, 0x00000100#32),
   (0xFFFFFF00#32, 0x00000200#32), (0xFFFFFF00#32, 0x00000300#32),
   (0xFFFFFF00#32, 0x00000400#32), (0xFFFFFF00#32, 0x00000500#32),
   (0xFFFFFF00#32, 0x00000600#32), (0xFFFFFF00#32, 0x00000700#32),
   (0xDF000000#32, 0x00000000#32), (0xFFC00000#32, 0x40000000#32),
   (0xFFE00000#32, 0x40400000#32), (0xFFE00000#32, 0x40600000#32),
   (0xFFC00000#32, 0x40800000#32), (0xFFC00000#32, 0x40C00000#32),
   (0xFFC00000#32, 0x60000000#32), (0xFFE00000#32, 0x60400000#32),
   (0xFFE00000#32, 0x60600000#32), (0xFFE00000#32, 0x60800000#32),
   (0xFFE00000#32, 0x60A00000#32), (0xFFE00000#32, 0x60C00000#32),
   (0xFFE00000#32, 0x60E00000#32), (0xFF3F0000#32, 0x803F0000#32),
   (0xFF200000#32, 0x80200000#32), (0xFF200000#32, 0x80000000#32),
   (0xFF3F0000#32, 0xA03F0000#32), (0xFF200000#32, 0xA0200000#32),
   (0xFF200000#32, 0xA0000000#32), (0xFFFFFF00#32, 0xE0000000#32),
   (0xFFFFFF00#32, 0xE0000100#32)]

/-- The row of a transaction in `opcodeRows`. -/
def rowIndex : Instr → Nat
  | .ppuWrCtrl1 _ => 0
  | .ppuWrCtrl2 _ => 1
  | .ppuWrStatus _ => 2
  | .ppuWrOamAddr _ => 3
  | .ppuWrOamData _ => 4
  | .ppuWrScroll _ => 5
  | .ppuWrAddr _ => 6
  | .ppuWrData _ => 7
  | .ppuRdCtrl1 => 8
  | .ppuRdCtrl2 => 9
  | .ppuRdStatus => 10
  | .ppuRdOamAddr => 11
  | .ppuRdOamData => 12
  | .ppuRdScroll => 13
  | .ppuRdAddr => 14
  | .ppuRdData => 15
  | .ppuBadIndex _ _ _ => 16
  | .cpuRdUnmappedLo _ => 17
  | .cpuRdUnmappedHi _ => 18
  | .cpuRdSram _ => 19
  | .cpuRdPrgLo _ => 20
  | .cpuRdPrgHi _ => 21
  | .cpuWrUnmappedLo _ _ => 22
  | .cpuWrUnmappedHi _ _ => 23
  | .cpuWrSram _ _ => 24
  | .cpuWrMapCtrl _ _ => 25
  | .cpuWrMapChr0 _ _ => 26
  | .cpuWrMapChr1 _ _ => 27
  | .cpuWrMapPrg _ _ => 28
  | .pbRdPal _ => 29
  | .pbRdNt _ => 30
  | .pbRdPat _ => 31
  | .pbWrPal _ _ => 32
  | .pbWrNt _ _ => 33
  | .pbWrPat _ _ => 34
  | .tick => 35
  | .nmiAck => 36

/-- The first row of the table that matches a word. -/
def firstRow (w : TransactionWord) : Option Nat := opcodeRows.findIdx? (fun r => w &&& r.1 == r.2)

/-- The fault a transaction raises in a running block (60_exceptions.md R251, R253, R254). -/
def haltReason : Instr → Option Fault
  | .ppuRdCtrl1 => some (.writeOnlyRegisterRead 0#3)
  | .ppuRdCtrl2 => some (.writeOnlyRegisterRead 1#3)
  | .ppuRdOamAddr => some (.writeOnlyRegisterRead 3#3)
  | .ppuRdOamData => some (.writeOnlyRegisterRead 4#3)
  | .ppuRdScroll => some (.writeOnlyRegisterRead 5#3)
  | .ppuRdAddr => some (.writeOnlyRegisterRead 6#3)
  | .ppuBadIndex _ idx _ => some (.registerIndexOutOfRange idx)
  | .ppuWrCtrl1 _ | .ppuWrCtrl2 _ | .ppuWrStatus _ | .ppuWrOamAddr _ | .ppuWrOamData _
  | .ppuWrScroll _ | .ppuWrAddr _ | .ppuWrData _ | .ppuRdStatus | .ppuRdData => none
  | .cpuRdUnmappedLo _ | .cpuRdUnmappedHi _ | .cpuRdSram _ | .cpuRdPrgLo _ | .cpuRdPrgHi _ => none
  | .cpuWrUnmappedLo _ _ | .cpuWrUnmappedHi _ _ | .cpuWrSram _ _ | .cpuWrMapCtrl _ _
  | .cpuWrMapChr0 _ _ | .cpuWrMapChr1 _ _ | .cpuWrMapPrg _ _ => none
  | .pbRdPal _ | .pbRdNt _ | .pbRdPat _ | .pbWrPal _ _ | .pbWrNt _ _ | .pbWrPat _ _ => none
  | .tick | .nmiAck => none

/-- The port of a transaction (30_encoding.md R100): 0 PR, 1 CP, 2 PB, 3 CT. -/
def portOf (i : Instr) : BitVec 2 := portField (encode i)

/-! ### Terms about memory -/

/-- A write to this place stores (20_memory.md R75): ROM does not, CHR RAM only with no CHR ROM. -/
def locWritable (s : State) : PpuLoc → Bool
  | .chrRom _ _ => false
  | .chrRam _ => decide (s.chr.length = 0)
  | .nametable _ => true
  | .palette _ => true

/-! ### Terms about a rendered scanline (43_renderer.md), in closed form -/

/-- The background pixel at column `px`: column `(x + px) mod 8` of the tile reached from `v` by
`(x + px) div 8` coarse-X increments (R211, R217). -/
def bgPixelAt (s : State) (px : Nat) : Pixel :=
  bgPixel s (bgTile s (incCoarseX^[(s.ppu.x.toNat + px) / 8] s.ppu.v))
    ((s.ppu.x.toNat + px) % 8)

/-- How many of the entries `lo`, ..., 63 are in range on scanline `sl` (R221). -/
def inRangeFrom (s : State) (sl lo : Nat) : Nat :=
  ((List.range 64).filter (fun j => decide (lo ≤ j) && inRange sl (oamEntry s.oam j).y)).length

/-- Entry `i` is drawn: in range, with fewer than 8 in-range entries of higher index (R220, R222). -/
def spriteDrawn (s : State) (sl i : Nat) : Bool :=
  inRange sl (oamEntry s.oam i).y && decide (inRangeFrom s sl (i + 1) < Config.spriteCap)

/-- Entry `i` has a non-transparent pixel at column `px` (R226). -/
def spriteOpaqueAt (s : State) (sl i px : Nat) : Bool :=
  let e := oamEntry s.oam i
  decide (e.x.toNat ≤ px) && decide (px ≤ e.x.toNat + 7)
    && decide (spriteColorIndex s sl e (px - e.x.toNat) ≠ 0#2)

/-- The colour entry `i` writes at column `px`, if it writes there (R227, R228). -/
def spriteColorAt (s : State) (sl i px : Nat) : Option Byte :=
  let e := oamEntry s.oam i
  if spriteOpaqueAt s sl i px && !(attrBehind e.attr && (bgPixelAt s px).bgOpaque) then
    some (ppuRead s (spriteColorAddr (attrSpal e.attr) (spriteColorIndex s sl e (px - e.x.toNat))))
  else none

/-- The composed colour at column `px`: the lowest-index drawn sprite that writes there, else the
background (R223, R228). -/
def composedAt (s : State) (sl px : Nat) : Byte :=
  ((List.range 64).findSome? (fun i =>
    if spriteDrawn s sl i then spriteColorAt s sl i px else none)).getD (bgPixelAt s px).color

/-- Sprite 0 hits on scanline `sl` (R229): entry 0 is drawn and has a non-transparent pixel over an
opaque background pixel at a column of 0 to 254. -/
def spriteZeroHits (s : State) (sl : Nat) : Bool :=
  spriteDrawn s sl 0
    && (List.range 255).any (fun px => spriteOpaqueAt s sl 0 px && (bgPixelAt s px).bgOpaque)

/-- The row-1 condition of the tick table (42_timing.md R182, R184). -/
def rendersNow (s : State) : Prop :=
  tickOffset s.ppu.cyc = 255 ∧ tickScanline s.ppu.cyc < Config.visibleLines
    ∧ s.ppu.vblank = false ∧ ctrl2Bge s.ppu.ctrl2 = true

end Sys2Proof.Machine
end

