-- ==== Sys2Proof/Certificates/Slice0/Obligations.lean ====
section
/-! DEFINITION. The statements about the block, for the provers. `result` is the model's own field (log
2): every statement about a transaction says what it holds afterwards. A clause that rests on a decision
D<n> of 92_eei_decisions.md or on a log entry is named in the statement's docstring. -/

open Sys2Proof Sys2Proof.Machine

/-! ### Encoding -/

/-- 30_encoding.md sections 1 to 3: the decoder gives back every transaction, with every operand. The
packing is the spec's decision D1. -/
def Obligations.DecodeOfEncodeIsTheInstruction : Prop :=
  ∀ i : Instr, i.wf = true → decodeWord (encode i) = .ok i

/-- The other direction: a word that decodes is the word of its transaction, but for the DATA bits that
reads and control transactions ignore (30_encoding.md sections 1 and 2, decision D1). -/
def Obligations.EncodeOfDecodeIsTheWord : Prop :=
  ∀ (w : TransactionWord) (i : Instr), decodeWord w = .ok i →
    encode i = if dataIgnored i then w &&& 0xFFFFFF00#32 else w

/-- The example words of 30_encoding.md section 4 (R110 marks them derived) and one register index out
of range. -/
def Obligations.SpecExampleWordsDecode : Prop :=
  decodeWord 0x20000621#32 = .ok (.ppuWrAddr 0x21#8)
  ∧ decodeWord 0x00000200#32 = .ok .ppuRdStatus
  ∧ decodeWord 0x60E00001#32 = .ok (.cpuWrMapPrg 0xE000#16 0x01#8)
  ∧ decodeWord 0x40800000#32 = .ok (.cpuRdPrgLo 0x8000#16)
  ∧ decodeWord 0xA03F000F#32 = .ok (.pbWrPal 0x3F00#16 0x0F#8)
  ∧ decodeWord 0xE0000000#32 = .ok .tick
  ∧ decodeWord 0xE0000100#32 = .ok .nmiAck
  ∧ decodeWord 0x20000800#32 = .ok (.ppuBadIndex true 8#16 0x00#8)

/-- The table of R103, row by row, and its last sentences: the four MAP rows write the serial port on
MMC1 and have no effect on NoMapper. -/
def Obligations.CpuPortRowsDecode : Prop :=
  (∀ w : TransactionWord, rsvField w = 0#5 → portField w = 1#2 →
    let a := addrField w
    let d := dataField w
    (rwField w = false →
      (a.toNat ≤ 0x3FFF → decodeWord w = .ok (.cpuRdUnmappedLo a))
      ∧ (0x4000 ≤ a.toNat ∧ a.toNat ≤ 0x5FFF → decodeWord w = .ok (.cpuRdUnmappedHi a))
      ∧ (0x6000 ≤ a.toNat ∧ a.toNat ≤ 0x7FFF → decodeWord w = .ok (.cpuRdSram a))
      ∧ (0x8000 ≤ a.toNat ∧ a.toNat ≤ 0xBFFF → decodeWord w = .ok (.cpuRdPrgLo a))
      ∧ (0xC000 ≤ a.toNat → decodeWord w = .ok (.cpuRdPrgHi a)))
    ∧ (rwField w = true →
      (a.toNat ≤ 0x3FFF → decodeWord w = .ok (.cpuWrUnmappedLo a d))
      ∧ (0x4000 ≤ a.toNat ∧ a.toNat ≤ 0x5FFF → decodeWord w = .ok (.cpuWrUnmappedHi a d))
      ∧ (0x6000 ≤ a.toNat ∧ a.toNat ≤ 0x7FFF → decodeWord w = .ok (.cpuWrSram a d))
      ∧ (0x8000 ≤ a.toNat ∧ a.toNat ≤ 0x9FFF → decodeWord w = .ok (.cpuWrMapCtrl a d))
      ∧ (0xA000 ≤ a.toNat ∧ a.toNat ≤ 0xBFFF → decodeWord w = .ok (.cpuWrMapChr0 a d))
      ∧ (0xC000 ≤ a.toNat ∧ a.toNat ≤ 0xDFFF → decodeWord w = .ok (.cpuWrMapChr1 a d))
      ∧ (0xE000 ≤ a.toNat → decodeWord w = .ok (.cpuWrMapPrg a d))))
  ∧ (∀ (a : Addr) (d : Byte) (s : State), s.Running →
      ∀ i ∈ [Instr.cpuWrMapCtrl a d, .cpuWrMapChr0 a d, .cpuWrMapChr1 a d, .cpuWrMapPrg a d],
        (∀ mir, s.mapper = .noMapper mir → exec i s = .next { s with result := none })
        ∧ (∀ m, s.mapper = .mmc1 m →
            exec i s = .next { s with mapper := .mmc1 (serialWrite m a d), result := none }))

/-- spec/opcode_table.json decides the decoder: the first row, in the order of `decode_priority`, whose
mask and match fit the word is the row of the transaction it decodes to, and an Invalid word fits no row
(30_encoding.md section 3, R107 with decision D1). -/
def Obligations.OpcodeTableDecidesDecoder : Prop :=
  ∀ w : TransactionWord,
    firstRow w = match decodeWord w with
      | .ok i => some (rowIndex i)
      | .error _ => none

/-- 30_encoding.md R106 (decision D1): which words are Invalid, and that a step refuses exactly them. The
refusal in a halted block too is log 5 (DEDUCED from R106). That a step on every other word answers a next
state, also on a faulting word and in a halted block, is log 4 (DEDUCED from 60_exceptions.md section 1,
R250). The issued word stands in `pending` (log 1). -/
def Obligations.InvalidWordsAreRefused : Prop :=
  ∀ w : TransactionWord,
    let invalid := rsvField w ≠ 0#5 ∨ (portField w = 3#2 ∧ rwField w = false)
      ∨ (portField w = 3#2 ∧ addrField w ≠ 0#16 ∧ addrField w ≠ 1#16)
    (invalid → ∃ e, decodeWord w = .error e
      ∧ ∀ s rest, s.pending = w :: rest → step s = .refused (.invalidWord w e))
    ∧ (¬ invalid → ∃ i, decodeWord w = .ok i
      ∧ ∀ s rest, s.pending = w :: rest → ∃ t, step s = .next t)

/-! ### Reset and the invariant -/

/-- 70_reset_and_hazards.md section 1 (R281 with decision D39, R282 with D40): what every construction
leaves, for every loader, parameters and RAM_INIT. For a loader whose checks fail, R280 stops before any
element is set: there these values are the model's choice (log 10, DESIGN CHOICE). The mapper of an MMC1
loader with another flag is left out (log 11). The empty `pending` and `result` are the model's own fields
(logs 1, 2). -/
def Obligations.ConstructionResetValues : Prop :=
  ∀ (p : Params) (l : Loader) (r : RamInit),
    let s := construct p l r
    s.ppu = { ctrl1 := 0, ctrl2 := 0, vblank := false, s0hit := false, overflow := false,
              oamAddr := 0, v := 0, t := 0, x := 0, w := false, rdbuf := 0, cyc := 0, nmi := false,
              events := [] }
    ∧ s.oam = r.oam ∧ s.ntRam = r.ntRam ∧ s.palRam = r.palRam
    ∧ (l.chr = [] → s.chrRam = r.chrRam) ∧ (l.prgRamUnits = 1 → s.prgRam = r.prgRam)
    ∧ s.prg = l.prg ∧ s.chr = l.chr ∧ s.prgRamUnits = l.prgRamUnits ∧ s.params = p
    ∧ s.pending = [] ∧ s.result = none
    ∧ (l.variant = .noMapper → l.mirroring = .horizontal → s.mapper = .noMapper .horizontal)
    ∧ (l.variant = .noMapper → l.mirroring = .vertical → s.mapper = .noMapper .vertical)
    ∧ (l.variant = .mmc1 → l.mirroring = .vertical →
        s.mapper = .mmc1 { control := 0x0E, chr0 := 0, chr1 := 0, prg := 0, sr := 0, cnt := 0 })
    ∧ (l.variant = .mmc1 → l.mirroring = .horizontal →
        s.mapper = .mmc1 { control := 0x0F, chr0 := 0, chr1 := 0, prg := 0, sr := 0, cnt := 0 })

/-- 60_exceptions.md section 1 (R252 with decision D38) and 70_reset_and_hazards.md R280: construction
halts the block exactly when a check fails. Which checks the reason lists is log 10. -/
def Obligations.ConstructionHaltsOnFailedChecks : Prop :=
  ∀ (p : Params) (l : Loader) (r : RamInit),
    let bad := l.prgRamUnits > 1 ∨ (∃ b ∈ l.prg, b.size ≠ 16384) ∨ (∃ b ∈ l.chr, b.size ≠ 8192)
      ∨ (l.variant = .noMapper ∧ l.chr.length > 1)
      ∨ (l.variant = .noMapper ∧ l.mirroring ≠ .horizontal ∧ l.mirroring ≠ .vertical)
      ∨ (l.variant = .mmc1 ∧ l.prg = [])
    (bad → ∃ failed, failed ≠ [] ∧ (construct p l r).fault = some (.configInvalid failed))
    ∧ (¬ bad → (construct p l r).fault = none)

/-- `State.reset` is a construction and meets the invariant. Its cartridge and RAM contents are the
model's choice (logs 6, 7, 8). -/
def Obligations.ResetStateMeetsTheInvariant : Prop :=
  State.reset = construct Config.defaultParams resetLoader resetRam
  ∧ State.reset.wf = true ∧ State.reset.Running

/-- Every construction from buffers and RAM contents in canonical form meets the invariant, halted or
not (70_reset_and_hazards.md section 1). -/
def Obligations.ConstructionMeetsTheInvariant : Prop :=
  ∀ (p : Params) (l : Loader) (r : RamInit), inputsWf l r = true → (construct p l r).wf = true

/-- Every step from a state that meets the invariant leads to one that does: memories in canonical form
inside their sizes, the serial fill count 0 to 4, a fault some rule raises, and a configuration that
passed its checks unless construction failed. -/
def Obligations.StepKeepsTheInvariant : Prop :=
  ∀ s t : State, s.wf = true → step s = .next t → t.wf = true

/-! ### Steps and faults -/

/-- A step takes the oldest issued word and runs its transaction on the state without it; with nothing
issued it changes nothing (logs 1, 3). -/
def Obligations.StepRunsTheDecodedTransaction : Prop :=
  ∀ s : State,
    (s.pending = [] → step s = .next s)
    ∧ (∀ w rest i, s.pending = w :: rest → decodeWord w = .ok i →
        i.wf = true ∧ step s = exec i { s with pending := rest })

/-- 60_exceptions.md section 1 (R250, R44, decision D41): in the halted state no transaction has an
effect or returns a value. That it answers a next state is log 4. -/
def Obligations.HaltedBlockTakesNoEffect : Prop :=
  ∀ (i : Instr) (s : State) (r : Fault), s.fault = some r →
    exec i s = .next { s with result := none }

/-- 60_exceptions.md section 1 (R250, decision D41): faults are never cleared, over any run.
The halted state as a next state is log 4. -/
def Obligations.HaltedBlockStaysHaltedOverRuns : Prop :=
  ∀ (n : Nat) (s t : State) (r : Fault), s.fault = some r → blockRun n s = .next t →
    t = { s with pending := t.pending, result := t.result }

/-- No transaction is refused or left without an answer, and none writes ROM, the loader's counts, the
parameters or the queue of issued words (10_state.md section 5, "ROM buffers are never written";
00_scope.md section 4, R7). That a fault and a halted block answer a next state is log 4 (DEDUCED from
60_exceptions.md section 1, R250); the clauses on `pending` and `params` are the model's choice of where
they stand (logs 1 and 8). -/
def Obligations.EveryTransactionAnswersAndKeepsRom : Prop :=
  ∀ (i : Instr) (s : State), ∃ t, exec i s = .next t
    ∧ t.prg = s.prg ∧ t.chr = s.chr ∧ t.prgRamUnits = s.prgRamUnits ∧ t.params = s.params
    ∧ t.pending = s.pending

/-- 60_exceptions.md section 1 (R250, R253, R254, decision D41): a running block is halted by exactly
the transactions that fault, with their reason and no other effect. The halted state as a next state is
log 4. -/
def Obligations.RunningBlockHaltsExactlyOnFaults : Prop :=
  ∀ (i : Instr) (s : State), s.Running → ∃ t, exec i s = .next t ∧ t.fault = haltReason i
    ∧ (haltReason i ≠ none → t = { s with fault := haltReason i, result := none })

/-! ### PPU register writes -/

/-- R120. -/
def Obligations.Control1WriteResult : Prop :=
  ∀ (d : Byte) (s : State), s.Running →
    exec (.ppuWrCtrl1 d) s = .next { s with
      ppu := { s.ppu with
        ctrl1 := d
        t := (s.ppu.t &&& ~~~0x0C00#15) ||| ((d &&& 0x03#8).setWidth 15 <<< 10) }
      result := none }
    ∧ ((s.ppu.t &&& ~~~0x0C00#15) ||| ((d &&& 0x03#8).setWidth 15 <<< 10)).extractLsb' 10 2
        = d.extractLsb' 0 2

/-- R121, R122, R123. -/
def Obligations.PlainRegisterWriteResults : Prop :=
  ∀ (d : Byte) (s : State), s.Running →
    exec (.ppuWrCtrl2 d) s = .next { s with ppu := { s.ppu with ctrl2 := d }, result := none }
    ∧ exec (.ppuWrStatus d) s = .next { s with result := none }
    ∧ exec (.ppuWrOamAddr d) s
        = .next { s with ppu := { s.ppu with oamAddr := d }, result := none }

/-- 40_ppu_registers.md section 2, PPU_WR_OAMDATA (R124; the wrap is decision D8): the byte at the
cursor, every other byte of OAM as before, the cursor one further modulo 256. -/
def Obligations.OamDataWriteResult : Prop :=
  ∀ (d : Byte) (s : State), s.Running → s.wf = true →
    ∃ t, exec (.ppuWrOamData d) s = .next t
      ∧ t = { s with oam := t.oam, ppu := { s.ppu with oamAddr := s.ppu.oamAddr + 1#8 },
                     result := none }
      ∧ ∀ k, cellRead t.oam k = if k = s.ppu.oamAddr.toNat then d else cellRead s.oam k

/-- 40_ppu_registers.md section 2, PPU_WR_SCROLL in both phases and PPU_WR_ADDR in its first (R125,
R126, R127; the bit placement is decision D6). -/
def Obligations.ScrollAndFirstAddressWriteResults : Prop :=
  ∀ (d : Byte) (s : State), s.Running →
    (s.ppu.w = false →
      exec (.ppuWrScroll d) s = .next { s with
        ppu := { s.ppu with
          t := (s.ppu.t &&& ~~~0x001F#15) ||| (d >>> 3).setWidth 15
          x := d.extractLsb' 0 3
          w := true }
        result := none }
      ∧ exec (.ppuWrAddr d) s = .next { s with
        ppu := { s.ppu with
          t := (s.ppu.t &&& 0x00FF#15) ||| ((d &&& 0x3F#8).setWidth 15 <<< 8)
          w := true }
        result := none })
    ∧ (s.ppu.w = true →
      exec (.ppuWrScroll d) s = .next { s with
        ppu := { s.ppu with
          t := (s.ppu.t &&& ~~~0x73E0#15) ||| ((d &&& 0x07#8).setWidth 15 <<< 12)
            ||| ((d >>> 3).setWidth 15 <<< 5)
          w := false }
        result := none })

/-- R128. -/
def Obligations.SecondAddressWriteResult : Prop :=
  ∀ (d : Byte) (s : State), s.Running → s.ppu.w = true →
    exec (.ppuWrAddr d) s = .next { s with
      ppu := { s.ppu with
        t := (s.ppu.t &&& 0x7F00#15) ||| d.setWidth 15
        v := (s.ppu.t &&& 0x7F00#15) ||| d.setWidth 15
        w := false }
      result := none }

/-- 40_ppu_registers.md section 2, PPU_WR_DATA (R129; the step is R139 with decisions D3 and D7, what a
place stores R75 with D30): the byte at `v & 0x3FFF`, every other byte of every memory as before, `v`
advanced by the step. -/
def Obligations.VramDataWriteResult : Prop :=
  ∀ (d : Byte) (s : State), s.Running → s.wf = true →
    ∃ t, exec (.ppuWrData d) s = .next t
      ∧ t = { s with
          ppu := { s.ppu with v := s.ppu.v + (if s.ppu.ctrl1.getLsbD 2 then 32#15 else 1#15) }
          chrRam := t.chrRam, ntRam := t.ntRam, palRam := t.palRam, result := none }
      ∧ ∀ l : PpuLoc, readLoc t l =
          if l = ppuLocate s (s.ppu.v.setWidth 16 &&& 0x3FFF#16) ∧ locWritable s l = true then d
          else readLoc s l

/-! ### PPU register reads -/

/-- 40_ppu_registers.md section 3 (R130, R131, R133 to R136, R250 with decision D41): the six
write-only registers halt the block when read. The halted state as a next state is log 4. -/
def Obligations.WriteOnlyRegisterReadsHalt : Prop :=
  ∀ s : State, s.Running →
    let halted := fun (i : BitVec 3) =>
      (Host.Outcome.next { s with fault := some (Fault.writeOnlyRegisterRead i), result := none } :
        Host.Outcome State Fault Refusal)
    exec .ppuRdCtrl1 s = halted 0#3 ∧ exec .ppuRdCtrl2 s = halted 1#3
    ∧ exec .ppuRdOamAddr s = halted 3#3 ∧ exec .ppuRdOamData s = halted 4#3
    ∧ exec .ppuRdScroll s = halted 5#3 ∧ exec .ppuRdAddr s = halted 6#3

/-- 40_ppu_registers.md R138 (decision D52) with R250: an index out of range halts the block. The halted
state as a next state is log 4. -/
def Obligations.BadRegisterIndexHalts : Prop :=
  ∀ (rw : Bool) (idx : Addr) (d : Byte) (s : State), s.Running →
    exec (.ppuBadIndex rw idx d) s
      = .next { s with fault := some (.registerIndexOutOfRange idx), result := none }

/-- 40_ppu_registers.md section 3, PPU_RD_STATUS (R132; bit positions decision D5, bits 4:0 D51): the
flags, then vblank and the toggle cleared. -/
def Obligations.StatusReadResult : Prop :=
  ∀ s : State, s.Running →
    ∃ r : Byte, exec .ppuRdStatus s
        = .next { s with ppu := { s.ppu with vblank := false, w := false }, result := some r }
      ∧ r.getLsbD 7 = s.ppu.vblank ∧ r.getLsbD 6 = s.ppu.s0hit ∧ r.getLsbD 5 = s.ppu.overflow
      ∧ r.extractLsb' 0 5 = 0#5

/-- 40_ppu_registers.md section 3, PPU_RD_DATA (R137; the step is R139 with decisions D3 and D7,
palette addresses D50). -/
def Obligations.VramDataReadResult : Prop :=
  ∀ s : State, s.Running →
    exec .ppuRdData s = .next { s with
      ppu := { s.ppu with
        rdbuf := ppuRead s (s.ppu.v.setWidth 16 &&& 0x3FFF#16)
        v := s.ppu.v + (if s.ppu.ctrl1.getLsbD 2 then 32#15 else 1#15) }
      result := some s.ppu.rdbuf }

/-- 70_reset_and_hazards.md section 3 (R285, marked derived): a run of reads returns the stale latch and
then the bytes at the addresses `v` had, one read late. -/
def Obligations.ConsecutiveVramReadsAreOneLate : Prop :=
  ∀ s : State, s.Running →
    ∃ t u, exec .ppuRdData s = .next t ∧ exec .ppuRdData t = .next u
      ∧ t.result = some s.ppu.rdbuf
      ∧ u.result = some (ppuRead s (s.ppu.v.setWidth 16 &&& 0x3FFF#16))
      ∧ u.ppu.rdbuf = ppuRead s ((s.ppu.v + vramStep s.ppu.ctrl1).setWidth 16 &&& 0x3FFF#16)
      ∧ u.ppu.v = s.ppu.v + vramStep s.ppu.ctrl1 + vramStep s.ppu.ctrl1

/-! ### CPU space -/

/-- 41_mapper_access.md section 1 (R151, R155 with decision D27). -/
def Obligations.UnmappedCpuAccessResult : Prop :=
  ∀ (a : Addr) (d : Byte) (s : State), s.Running →
    exec (.cpuRdUnmappedLo a) s = .next { s with result := some 0x00#8 }
    ∧ exec (.cpuRdUnmappedHi a) s = .next { s with result := some 0x00#8 }
    ∧ exec (.cpuWrUnmappedLo a d) s = .next { s with result := none }
    ∧ exec (.cpuWrUnmappedHi a d) s = .next { s with result := none }

/-- R152, R156: PRG RAM read and written, or 0x00 and no effect with none. -/
def Obligations.SramAccessResult : Prop :=
  ∀ (a : Addr) (d : Byte) (s : State), s.Running → s.wf = true →
    0x6000 ≤ a.toNat → a.toNat ≤ 0x7FFF →
    (s.prgRamUnits = 1 →
      exec (.cpuRdSram a) s = .next { s with result := some (cellRead s.prgRam (a.toNat - 0x6000)) }
      ∧ ∃ t, exec (.cpuWrSram a d) s = .next t
          ∧ t = { s with prgRam := t.prgRam, result := none }
          ∧ ∀ k, cellRead t.prgRam k = if k = a.toNat - 0x6000 then d else cellRead s.prgRam k)
    ∧ (s.prgRamUnits ≠ 1 →
      exec (.cpuRdSram a) s = .next { s with result := some 0x00#8 }
      ∧ exec (.cpuWrSram a d) s = .next { s with result := none })

/-- R78: the two windows of NoMapper. -/
def Obligations.NoMapperPrgWindows : Prop :=
  ∀ (a : Addr) (s : State) (mir : Mirroring), s.Running → s.mapper = .noMapper mir →
    let returns := fun (b : Byte) =>
      (Host.Outcome.next { s with result := some b } : Host.Outcome State Fault Refusal)
    (0x8000 ≤ a.toNat → a.toNat ≤ 0xBFFF →
      (∀ b0 b1, s.prg = [b0, b1] →
        exec (.cpuRdPrgLo a) s = returns (cellRead b0.bytes (a.toNat - 0x8000)))
      ∧ (∀ b0, s.prg = [b0] →
        exec (.cpuRdPrgLo a) s = returns (cellRead b0.bytes (a.toNat - 0x8000)))
      ∧ (s.prg.length ≠ 1 → s.prg.length ≠ 2 → exec (.cpuRdPrgLo a) s = returns 0x00#8))
    ∧ (0xC000 ≤ a.toNat →
      (∀ b0 b1, s.prg = [b0, b1] →
        exec (.cpuRdPrgHi a) s = returns (cellRead b1.bytes (a.toNat - 0xC000)))
      ∧ (∀ b0, s.prg = [b0] →
        exec (.cpuRdPrgHi a) s = returns (cellRead b0.bytes (a.toNat - 0xC000)))
      ∧ (s.prg.length ≠ 1 → s.prg.length ≠ 2 → exec (.cpuRdPrgHi a) s = returns 0x00#8))

/-- 20_memory.md section 6 (R82, R83; a bank number out of range R88 with decision D29): the two
windows of MMC1 in each PRG mode. -/
def Obligations.Mmc1PrgWindows : Prop :=
  ∀ (a : Addr) (s : State) (m : Mmc1), s.Running → s.mapper = .mmc1 m → s.prg ≠ [] →
    let r := m.prg.toNat % 16
    let n := s.prg.length
    let returns := fun (k offset : Nat) =>
      (Host.Outcome.next { s with result := some (
        match s.prg[k]?, s.params.oor with
        | some rom, _ => cellRead rom.bytes offset
        | none, .zeroFill => 0x00#8
        | none, .wrap => cellRead ((s.prg[k % n]?).elim [] Rom.bytes) offset) } :
        Host.Outcome State Fault Refusal)
    (0x8000 ≤ a.toNat → a.toNat ≤ 0xBFFF →
      (controlPrgm m.control = 0#2 ∨ controlPrgm m.control = 1#2 →
        exec (.cpuRdPrgLo a) s = returns (r / 2 * 2) (a.toNat - 0x8000))
      ∧ (controlPrgm m.control = 2#2 → exec (.cpuRdPrgLo a) s = returns 0 (a.toNat - 0x8000))
      ∧ (controlPrgm m.control = 3#2 → exec (.cpuRdPrgLo a) s = returns r (a.toNat - 0x8000)))
    ∧ (0xC000 ≤ a.toNat →
      (controlPrgm m.control = 0#2 ∨ controlPrgm m.control = 1#2 →
        exec (.cpuRdPrgHi a) s = returns (r / 2 * 2 + 1) (a.toNat - 0xC000))
      ∧ (controlPrgm m.control = 2#2 → exec (.cpuRdPrgHi a) s = returns r (a.toNat - 0xC000))
      ∧ (controlPrgm m.control = 3#2 → exec (.cpuRdPrgHi a) s = returns (n - 1) (a.toNat - 0xC000)))

/-- R150: a CP transaction is the CPU-space access of its address, and it touches no PPU state. -/
def Obligations.CpuPortIsCpuSpaceAccess : Prop :=
  ∀ (a : Addr) (d : Byte) (s : State), s.Running →
    exec (decodeCpuRead a) s = .next { s with result := some (cpuRead s a) }
    ∧ exec (decodeCpuWrite a d) s = .next { cpuWrite s a d with result := none }
    ∧ (cpuWrite s a d).ppu = s.ppu ∧ (cpuWrite s a d).oam = s.oam

/-- 10_state.md R46 and 41_mapper_access.md R150, as non-interference: what a CP transaction does and
returns does not depend on the PPU's registers or OAM. -/
def Obligations.CpuPortDoesNotSeeThePpu : Prop :=
  ∀ (i : Instr) (s : State) (p : Ppu) (o : Memory), portOf i = 1#2 →
    ∃ t, exec i s = .next t
      ∧ exec i { s with ppu := p, oam := o } = .next { t with ppu := p, oam := o }

/-! ### The MMC1 serial port -/

/-- 41_mapper_access.md section 2 (R157 to R160 with decisions D31, D32, D33) for each of the four MAP
transactions: a reset write at any fill count; a data bit below the fifth; the fifth, which commits to
the register the transaction names; and no effect on NoMapper. -/
def Obligations.SerialWriteResults : Prop :=
  ∀ (a : Addr) (d : Byte) (s : State), s.Running →
    (∀ mir, s.mapper = .noMapper mir →
      ∀ i ∈ [Instr.cpuWrMapCtrl a d, .cpuWrMapChr0 a d, .cpuWrMapChr1 a d, .cpuWrMapPrg a d],
        exec i s = .next { s with result := none })
    ∧ (∀ m, s.mapper = .mmc1 m →
      let became := fun (m' : Mmc1) =>
        (Host.Outcome.next { s with mapper := .mmc1 m', result := none } :
          Host.Outcome State Fault Refusal)
      let shifted := (m.sr >>> 1) ||| (if d.getLsbD 0 then 0x10#5 else 0x00#5)
      (d.getLsbD 7 = true →
        ∀ i ∈ [Instr.cpuWrMapCtrl a d, .cpuWrMapChr0 a d, .cpuWrMapChr1 a d, .cpuWrMapPrg a d],
          exec i s = became { m with control := m.control ||| 0x0C#5, sr := 0, cnt := 0 })
      ∧ (d.getLsbD 7 = false → m.cnt ≠ 4 →
        ∀ i ∈ [Instr.cpuWrMapCtrl a d, .cpuWrMapChr0 a d, .cpuWrMapChr1 a d, .cpuWrMapPrg a d],
          exec i s = became { m with sr := shifted, cnt := m.cnt + 1 })
      ∧ (d.getLsbD 7 = false → m.cnt = 4 →
        (0x8000 ≤ a.toNat → a.toNat ≤ 0x9FFF →
          exec (.cpuWrMapCtrl a d) s = became { m with control := shifted, sr := 0, cnt := 0 })
        ∧ (0xA000 ≤ a.toNat → a.toNat ≤ 0xBFFF →
          exec (.cpuWrMapChr0 a d) s = became { m with chr0 := shifted, sr := 0, cnt := 0 })
        ∧ (0xC000 ≤ a.toNat → a.toNat ≤ 0xDFFF →
          exec (.cpuWrMapChr1 a d) s = became { m with chr1 := shifted, sr := 0, cnt := 0 })
        ∧ (0xE000 ≤ a.toNat →
          exec (.cpuWrMapPrg a d) s = became { m with prg := shifted, sr := 0, cnt := 0 })))

/-- 41_mapper_access.md section 2 (R159, R160; 90_conflicts.md C1, C2, decision D32): from an empty
shift register, five issued data writes commit exactly once, the first bit lowest, to the register the
fifth address selects. -/
def Obligations.FiveSerialWritesCommitOnce : Prop :=
  ∀ (s : State) (m : Mmc1) (a0 a1 a2 a3 a4 : Addr) (d0 d1 d2 d3 d4 : Byte),
    s.Running → s.mapper = .mmc1 m → m.cnt = 0 →
    (∀ a ∈ [a0, a1, a2, a3, a4], 0x8000 ≤ a.toNat) →
    (∀ d ∈ [d0, d1, d2, d3, d4], d.getLsbD 7 = false) →
    let value : Reg5 := BitVec.ofNat 5 ((d0.getLsbD 0).toNat + 2 * (d1.getLsbD 0).toNat
      + 4 * (d2.getLsbD 0).toNat + 8 * (d3.getLsbD 0).toNat + 16 * (d4.getLsbD 0).toNat)
    let target := a4.toNat / 0x2000 % 4
    blockRun 5 { s with pending :=
        [wrCpuWord a0 d0, wrCpuWord a1 d1, wrCpuWord a2 d2, wrCpuWord a3 d3, wrCpuWord a4 d4] }
      = .next { s with
          pending := [], result := none
          mapper := .mmc1 { m with
            sr := 0, cnt := 0
            control := if target = 0 then value else m.control
            chr0 := if target = 1 then value else m.chr0
            chr1 := if target = 2 then value else m.chr1
            prg := if target = 3 then value else m.prg } }

/-! ### PPU space -/

/-- 41_mapper_access.md section 3, PB_RD_NT and PB_RD_PAL (R166; R167 and the palette index with
decision D19). -/
def Obligations.NametableAndPaletteReadResults : Prop :=
  ∀ (a : Addr) (s : State), s.Running →
    (a.busWithin 0x2000 0x3EFF = true →
      exec (.pbRdNt a) s = .next { s with result := some (cellRead s.ntRam
        (ntBlock (ntMode s.mapper) (0x2000#16 ||| (a &&& 0x0FFF#16)) * 0x400 + a.toNat % 0x400)) })
    ∧ (a.busWithin 0x3F00 0x3FFF = true →
      let i := a.toNat % 32
      exec (.pbRdPal a) s = .next { s with result := some (cellRead s.palRam
        (if i = 0x10 ∨ i = 0x14 ∨ i = 0x18 ∨ i = 0x1C then i - 0x10 else i)) })

/-- 41_mapper_access.md section 3, PB_RD_PAT (R165), by the five mappings of 20_memory.md R80, R85 and
R86 (decisions D30, D35): NoMapper with its CHR ROM or with CHR RAM, MMC1 with CHR ROM in both CHR
modes (a buffer out of range by R88, D29) or with CHR RAM in both. -/
def Obligations.PatternReadResults : Prop :=
  ∀ (addr : Addr) (s : State), s.Running → addr.busWithin 0x0000 0x1FFF = true →
    let a := addr.toNat % 0x4000
    let returns := fun (b : Byte) =>
      (Host.Outcome.next { s with result := some b } : Host.Outcome State Fault Refusal)
    (∀ mir, s.mapper = .noMapper mir →
      (∀ b, s.chr = [b] → exec (.pbRdPat addr) s = returns (cellRead b.bytes a))
      ∧ (s.chr = [] → exec (.pbRdPat addr) s = returns (cellRead s.chrRam a)))
    ∧ (∀ m, s.mapper = .mmc1 m →
      let unit : Nat :=
        if controlChrm m.control then (if a < 0x1000 then m.chr0.toNat else m.chr1.toNat)
        else m.chr0.toNat / 2 * 2 + a / 0x1000
      let half : Nat := (if a < 0x1000 then m.chr0.toNat else m.chr1.toNat) % 2
      (s.chr ≠ [] → exec (.pbRdPat addr) s = returns (
        match s.chr[unit / 2]?, s.params.oor with
        | some rom, _ => cellRead rom.bytes (unit % 2 * 0x1000 + a % 0x1000)
        | none, .zeroFill => 0x00#8
        | none, .wrap => cellRead ((s.chr[unit / 2 % s.chr.length]?).elim [] Rom.bytes)
            (unit % 2 * 0x1000 + a % 0x1000)))
      ∧ (s.chr = [] → controlChrm m.control = false →
        exec (.pbRdPat addr) s = returns (cellRead s.chrRam a))
      ∧ (s.chr = [] → controlChrm m.control = true →
        exec (.pbRdPat addr) s = returns (cellRead s.chrRam (half * 0x1000 + a % 0x1000))))

/-- 41_mapper_access.md section 3, the three PB writes (R168, R169; R170 with decision D19; what a place
stores R75 with D30): the byte at the address stored to, every other byte of every memory as before. -/
def Obligations.BusWriteResults : Prop :=
  ∀ (a : Addr) (d : Byte) (s : State), s.Running → s.wf = true →
    let stores := fun (i : Instr) => ∃ t, exec i s = .next t
      ∧ t = { s with chrRam := t.chrRam, ntRam := t.ntRam, palRam := t.palRam, result := none }
      ∧ ∀ l : PpuLoc, readLoc t l =
          if l = ppuLocate s a ∧ locWritable s l = true then d else readLoc s l
    (a.busWithin 0x0000 0x1FFF = true → stores (.pbWrPat a d))
    ∧ (a.busWithin 0x2000 0x3EFF = true → stores (.pbWrNt a d))
    ∧ (a.busWithin 0x3F00 0x3FFF = true → stores (.pbWrPal a d))

/-- 30_encoding.md section 2 and 92_eei_decisions.md D49: a PB transaction is the PPU-space access the
PPU makes, whatever row its address selects. -/
def Obligations.BusPortIsPpuSpaceAccess : Prop :=
  ∀ (a : Addr) (d : Byte) (s : State), s.Running →
    exec (decodeBusRead a) s = .next { s with result := some (ppuRead s a) }
    ∧ exec (decodeBusWrite a d) s = .next { ppuWrite s a d with result := none }

/-- 20_memory.md section 3 (R67, R71; the translators with decision D26; R71 marks the facts derived):
each translator is idempotent, stays in nametable space, keeps the low 10 bits, and reaches the same
byte. -/
def Obligations.TranslatorIsIdempotent : Prop :=
  ∀ (m : NtMode) (a : Addr),
    ntTranslate m (ntTranslate m a) = ntTranslate m a
    ∧ (ntTranslate m a).extractLsb' 0 10 = a.extractLsb' 0 10
    ∧ 0x2000 ≤ (ntTranslate m a).toNat ∧ (ntTranslate m a).toNat ≤ 0x2FFF
    ∧ ntIndex m (ntTranslate m a) = ntIndex m a ∧ ntIndex m a < 2048

/-- 20_memory.md sections 3, 5 and 6 (R68, R69, R70 with decision D26; R81, R87): which block each slot
reaches under each mapper setting. -/
def Obligations.MirroringSelectsBlocks : Prop :=
  ∀ (a : Addr) (m : Mapper),
    let slot := a.toNat / 0x400 % 4
    let block := ntBlock (ntMode m) a
    (m = .noMapper .horizontal ∨ (∃ r, m = .mmc1 r ∧ controlMir r.control = 3#2) →
      block = if slot = 0 ∨ slot = 1 then 0 else 1)
    ∧ (m = .noMapper .vertical ∨ (∃ r, m = .mmc1 r ∧ controlMir r.control = 2#2) →
      block = if slot = 0 ∨ slot = 2 then 0 else 1)
    ∧ ((∃ r, m = .mmc1 r ∧ controlMir r.control = 0#2) → block = 0)
    ∧ ((∃ r, m = .mmc1 r ∧ controlMir r.control = 1#2) → block = 1)

/-- 20_memory.md section 4 (R76, R77 with decisions D19 and D25): the palette repeats every 32 bytes,
the four sprite entry-0 addresses alias the background's, and 0x3000 to 0x3EFF mirrors 0x2000 to
0x2EFF. -/
def Obligations.PpuSpaceMirrors : Prop :=
  ∀ (s : State) (a : Addr),
    (0x3F00 ≤ a.toNat → a.toNat ≤ 0x3FDF → ppuRead s (a + 32#16) = ppuRead s a)
    ∧ (∀ k ∈ [0x3F10#16, 0x3F14#16, 0x3F18#16, 0x3F1C#16],
        ppuRead s k = ppuRead s (k - 16#16))
    ∧ (0x3000 ≤ a.toNat → a.toNat ≤ 0x3EFF → ppuRead s a = ppuRead s (a - 0x1000#16))
    ∧ ppuRead s (a &&& 0x3FFF#16) = ppuRead s a

/-! ### Timing and scroll -/

/-- 42_timing.md sections 1 and 2 (R181, R182, R185, R187; decisions D11 to D15 and D6): what one tick
does, row by row, and that where no row fires only the counter moves. No tick touches a memory or the
mapper. -/
def Obligations.TickResult : Prop :=
  ∀ s : State, s.Running →
    let sl := s.ppu.cyc / 341 % 262
    let off := s.ppu.cyc % 341
    let bge := s.ppu.ctrl2.getLsbD 3
    let spe := s.ppu.ctrl2.getLsbD 4
    let guarded := s.params.guard = .literal
      ∨ ((bge = true ∨ spe = true) ∧ (sl < 240 ∨ sl = 261))
    let renders := off = 255 ∧ sl < 240 ∧ s.ppu.vblank = false ∧ bge = true
    let became := fun (p : Ppu) =>
      exec .tick s = .next { s with ppu := { p with cyc := s.ppu.cyc + 1 }, result := none }
    (renders → became (render sl s).ppu)
    ∧ (off = 256 → guarded → became { s.ppu with v := incY s.ppu.v })
    ∧ (off = 257 → guarded →
        became { s.ppu with v := (s.ppu.v &&& ~~~0x041F#15) ||| (s.ppu.t &&& 0x041F#15) })
    ∧ (sl = 261 → 280 ≤ off → off ≤ 304 → guarded →
        became { s.ppu with v := (s.ppu.v &&& ~~~0x7BE0#15) ||| (s.ppu.t &&& 0x7BE0#15) })
    ∧ (sl = 241 → off = 0 →
        became { s.ppu with
          events := s.ppu.events ++ [.renderSync]
          vblank := true
          nmi := if s.ppu.ctrl1.getLsbD 7 then true else s.ppu.nmi })
    ∧ (sl = 261 → off = 0 →
        became { s.ppu with vblank := false, s0hit := false, overflow := false })
    ∧ (¬ renders → ¬ ((off = 256 ∨ off = 257) ∧ guarded) →
        ¬ (sl = 261 ∧ 280 ≤ off ∧ off ≤ 304 ∧ guarded) → ¬ (sl = 241 ∧ off = 0) →
        ¬ (sl = 261 ∧ off = 0) → became s.ppu)

/-- 42_timing.md sections 1 and 4 (R180 with decision D11; R192, marked derived): the position of a
counter value in its frame, and the two vblank boundaries. -/
def Obligations.FramePositions : Prop :=
  ∀ cyc : Nat,
    tickOffset cyc < 341 ∧ tickScanline cyc < 262
    ∧ cyc = 89342 * tickFrame cyc + 341 * tickScanline cyc + tickOffset cyc
    ∧ (tickScanline cyc = 241 ∧ tickOffset cyc = 0 ↔ cyc % 89342 = 82181)
    ∧ (tickScanline cyc = 261 ∧ tickOffset cyc = 0 ↔ cyc % 89342 = 89001)

/-- 42_timing.md section 3, IncCoarseX (R190 with decision D6), field by field: the column counts modulo
32 and its wrap switches the horizontal nametable. -/
def Obligations.CoarseXIncrementFields : Prop :=
  ∀ v : VramAddr,
    coarseX (incCoarseX v) = coarseX v + 1#5
    ∧ (incCoarseX v).getLsbD 10 = (v.getLsbD 10 != decide (coarseX v = 31#5))
    ∧ (incCoarseX v).extractLsb' 5 5 = v.extractLsb' 5 5
    ∧ (incCoarseX v).extractLsb' 11 4 = v.extractLsb' 11 4

/-- 42_timing.md section 3, IncY (R191; rows 30 and 31 with decision D24), field by field: fine Y counts
modulo 8, its wrap moves the row, row 29 wraps to 0 and switches the vertical nametable. -/
def Obligations.VerticalIncrementFields : Prop :=
  ∀ v : VramAddr,
    fineY (incY v) = fineY v + 1#3
    ∧ coarseX (incY v) = coarseX v ∧ (incY v).getLsbD 10 = v.getLsbD 10
    ∧ coarseY (incY v) = (if fineY v ≠ 7#3 then coarseY v
        else if coarseY v = 29#5 then 0#5 else coarseY v + 1#5)
    ∧ (incY v).getLsbD 11
        = (v.getLsbD 11 != (decide (fineY v = 7#3) && decide (coarseY v = 29#5)))

/-- 10_state.md R25: the writers of the three status flags. -/
def Obligations.StatusFlagWriters : Prop :=
  ∀ (i : Instr) (s t : State), exec i s = .next t →
    let at' := fun (sl off : Nat) => i = .tick ∧ tickScanline s.ppu.cyc = sl
      ∧ tickOffset s.ppu.cyc = off
    (s.ppu.vblank = false → t.ppu.vblank = true → at' Config.vblankStartLine 0)
    ∧ (s.ppu.vblank = true → t.ppu.vblank = false → i = .ppuRdStatus ∨ at' Config.vblankEndLine 0)
    ∧ (s.ppu.s0hit = false → t.ppu.s0hit = true →
        i = .tick ∧ rendersNow s ∧ ctrl2Spe s.ppu.ctrl2 = true)
    ∧ (s.ppu.s0hit = true → t.ppu.s0hit = false → at' Config.vblankEndLine 0)
    ∧ (s.ppu.overflow = false → t.ppu.overflow = true →
        i = .tick ∧ rendersNow s ∧ ctrl2Spe s.ppu.ctrl2 = true)
    ∧ (s.ppu.overflow = true → t.ppu.overflow = false → at' Config.vblankEndLine 0)

/-- 60_exceptions.md section 2 (R257 with decision D42): the NMI output rises only at the vblank-start
tick with the enable set, and falls only by NMI_ACK; no register write raises or withdraws it. -/
def Obligations.NmiRaiseAndClear : Prop :=
  ∀ (i : Instr) (s t : State), exec i s = .next t →
    (s.ppu.nmi = false → t.ppu.nmi = true →
      i = .tick ∧ tickScanline s.ppu.cyc = 241 ∧ tickOffset s.ppu.cyc = 0
        ∧ ctrl1Nmi s.ppu.ctrl1 = true)
    ∧ (s.ppu.nmi = true → t.ppu.nmi = false → i = .nmiAck)

/-- 60_exceptions.md section 2, NMI_ACK (R256 with decision D42). -/
def Obligations.NmiAckResult : Prop :=
  ∀ s : State, s.Running →
    exec .nmiAck s = .next { s with ppu := { s.ppu with nmi := false }, result := none }

/-- 10_state.md section 4 (R35 with decision D11, R37 with D45): only TICK moves the counter, by one,
and the event trace only ever grows at its end, by TICK alone. -/
def Obligations.CounterAndTraceMoveOnlyByTick : Prop :=
  ∀ (i : Instr) (s t : State), exec i s = .next t →
    (i ≠ .tick → t.ppu.cyc = s.ppu.cyc ∧ t.ppu.events = s.ppu.events)
    ∧ (i = .tick → s.Running → t.ppu.cyc = s.ppu.cyc + 1)
    ∧ ∃ more, t.ppu.events = s.ppu.events ++ more

/-! ### The renderer -/

/-- 43_renderer.md section 2 (R211, R219; the fetches, colours and order with decisions D16, D17, D18,
D53, D57): with sprites off, a render tick emits the row in closed form and moves `v` by 32 or 33
coarse-X steps. RenderedPixelFormulas says in arithmetic what the pixels are. -/
def Obligations.BackgroundScanlineResult : Prop :=
  ∀ s : State, s.Running → rendersNow s → ctrl2Spe s.ppu.ctrl2 = false →
    let sl := tickScanline s.ppu.cyc
    exec .tick s = .next { s with
      ppu := { s.ppu with
        cyc := s.ppu.cyc + 1
        v := incCoarseX^[if s.ppu.x = 0#3 then 32 else 33] s.ppu.v
        events := s.ppu.events
          ++ (.preRender sl
            :: (List.range 256).map (fun px => .setPixel px sl (bgPixelAt s px).color)
            ++ [.postRender sl]) }
      result := none }

/-- 43_renderer.md sections 3 and 4 (R220, R228; R221 to R227 and R230 with decisions D10, D16, D18,
D23, D53, D54): with sprites on, the emitted colour of a column is that of the lowest-index drawn sprite
that writes there, else the background's. RenderedPixelFormulas says in arithmetic what each writes. -/
def Obligations.ComposedScanlineResult : Prop :=
  ∀ s : State, s.Running → rendersNow s → ctrl2Spe s.ppu.ctrl2 = true →
    let sl := tickScanline s.ppu.cyc
    ∃ t, exec .tick s = .next t
      ∧ t = { s with
          ppu := { s.ppu with
            cyc := s.ppu.cyc + 1
            v := incCoarseX^[if s.ppu.x = 0#3 then 32 else 33] s.ppu.v
            overflow := t.ppu.overflow
            s0hit := t.ppu.s0hit
            events := s.ppu.events
              ++ (.preRender sl
                :: (List.range 256).map (fun px => .setPixel px sl (composedAt s sl px))
                ++ [.postRender sl]) }
          result := none }

/-- 43_renderer.md R222 and R220: the overflow flag is set exactly when more than 8 sprites are in range
(decision D10 for the range); it is never cleared here. -/
def Obligations.SpriteOverflowRule : Prop :=
  ∀ s : State, s.Running → rendersNow s → ctrl2Spe s.ppu.ctrl2 = true →
    let sl := tickScanline s.ppu.cyc
    ∃ t, exec .tick s = .next t
      ∧ t.ppu.overflow = (s.ppu.overflow || decide (8 < inRangeFrom s sl 0))

/-- 43_renderer.md R229 (decision D22, 90_conflicts.md C6): the sprite-0 hit, under the cap, whatever
the priority bit, at columns 0 to 254. -/
def Obligations.SpriteZeroHitRule : Prop :=
  ∀ s : State, s.Running → rendersNow s → ctrl2Spe s.ppu.ctrl2 = true →
    let sl := tickScanline s.ppu.cyc
    ∃ t, exec .tick s = .next t
      ∧ t.ppu.s0hit = (s.ppu.s0hit || spriteZeroHits s sl)

/-- 43_renderer.md R221 (decision D10; its last sentences are marked derived): a sprite covers scanlines
Y + 1 to Y + 8, none covers scanline 0, and Y of 239 or more covers no visible one. -/
def Obligations.SpriteRangeRule : Prop :=
  ∀ (sl : Nat) (y : Byte),
    (inRange sl y = true ↔ 0 ≤ (sl : Int) - (y.toNat + 1) ∧ (sl : Int) - (y.toNat + 1) ≤ 7)
    ∧ inRange 0 y = false ∧ (239 ≤ y.toNat → sl < 240 → inRange sl y = false)

/-! ### Ownership -/

/-- 10_state.md R46: the mapper ports never change the PPU's registers or OAM; the PPU and control ports
never change the mapper's registers or PRG RAM, and reach the mapper's other storage only by the
PPU-space write of register 7. -/
def Obligations.PortsKeepOwnership : Prop :=
  ∀ (i : Instr) (s t : State), exec i s = .next t →
    (portOf i = 1#2 ∨ portOf i = 2#2 → t.ppu = s.ppu ∧ t.oam = s.oam)
    ∧ (portOf i = 0#2 ∨ portOf i = 3#2 →
        t.mapper = s.mapper ∧ t.prgRam = s.prgRam
        ∧ ((t.chrRam = s.chrRam ∧ t.ntRam = s.ntRam ∧ t.palRam = s.palRam)
          ∨ ∃ d, i = .ppuWrData d
            ∧ t.chrRam = (ppuWrite s (s.ppu.v.setWidth 16 &&& 0x3FFF#16) d).chrRam
            ∧ t.ntRam = (ppuWrite s (s.ppu.v.setWidth 16 &&& 0x3FFF#16) d).ntRam
            ∧ t.palRam = (ppuWrite s (s.ppu.v.setWidth 16 &&& 0x3FFF#16) d).palRam))

/-- 10_state.md section 2 (R26 with decision D8): OAM is written by register-4 writes alone. -/
def Obligations.OamWrittenOnlyByRegisterFour : Prop :=
  ∀ (i : Instr) (s t : State), exec i s = .next t → t.oam ≠ s.oam → ∃ d, i = .ppuWrOamData d

/-- 30_encoding.md section 4, `setv a` (R109 with decision D48) over R127 and R128 (D6): the two words
the pseudo-transaction issues leave `v` and `t` at the 14-bit address. -/
def Obligations.SetvLoadsTheVramAddress : Prop :=
  ∀ (s : State) (a : Addr), s.Running → s.ppu.w = false →
    blockRun 2 { s with pending := assemble (.setv a) }
      = .next { s with
          pending := [], result := none
          ppu := { s.ppu with
            t := (a &&& 0x3FFF#16).setWidth 15, v := (a &&& 0x3FFF#16).setWidth 15, w := false } }

/-! ### The renderer's fetches and colours, in arithmetic -/

/-- 43_renderer.md sections 2 and 3 (R212 to R216, R218, R224, R225, R227; the layouts are decisions D16,
D18, D54 and D57): each address, shift and colour index the renderer uses, as arithmetic on the numbers
of the fields (coarse X `v % 32`, coarse Y `v / 32 % 32`, slot `v / 0x400 % 4`), bit 7 of a plane byte
leftmost. -/
def Obligations.RendererFetchFormulas : Prop :=
  (∀ v : VramAddr,
    (ntAddr v).toNat = 0x2000 + v.toNat % 0x1000
    ∧ (atAddr v).toNat = 0x23C0 + 0x400 * (v.toNat / 0x400 % 4) + 8 * (v.toNat / 32 % 32 / 4)
        + v.toNat % 32 / 4
    ∧ atShift v = 4 * (v.toNat / 32 % 32 / 2 % 2) + 2 * (v.toNat % 32 / 2 % 2))
  ∧ (∀ (table : Bool) (tile : Byte) (row : BitVec 3),
    (patAddr table tile row).toNat = (if table then 0x1000 else 0) + 16 * tile.toNat + row.toNat)
  ∧ (∀ (lo hi : Byte) (c : Nat), c ≤ 7 →
    (colorIndex lo hi c).toNat
      = 2 * (hi.toNat / 2 ^ (7 - c) % 2) + lo.toNat / 2 ^ (7 - c) % 2)
  ∧ (∀ pal ci : BitVec 2,
    (bgColorAddr pal ci).toNat
      = (if ci.toNat = 0 then 0x3F00 else 0x3F00 + 4 * pal.toNat + ci.toNat)
    ∧ (spriteColorAddr pal ci).toNat = 0x3F10 + 4 * pal.toNat + ci.toNat)
  ∧ (∀ (sl : Nat) (e : Sprite), e.y.toNat + 1 ≤ sl → sl ≤ e.y.toNat + 8 →
    (spriteRow sl e).toNat
      = if e.attr.getLsbD 7 then 7 - (sl - (e.y.toNat + 1)) else sl - (e.y.toNat + 1))

/-- 43_renderer.md sections 2 and 3 (R211 to R219 for the background; R221, R224 to R228 for a sprite in
range; bit positions R22 with decision D3 and R27; layouts D16, D18, D54, D57): the pixels that
BackgroundScanlineResult, ComposedScanlineResult and SpriteZeroHitRule speak of, from the bytes they are
fetched from, in arithmetic alone: the tile of column `px` is `(x + px) / 8` coarse-X steps (R190) from
`v`, plane 1 lies at +8, and sprite `i` is read from `oam[4i .. 4i+3]`. -/
def Obligations.RenderedPixelFormulas : Prop :=
  ∀ s : State,
    let byteAt := fun (a : Nat) => (ppuRead s (BitVec.ofNat 16 a)).toNat
    let index := fun (plane c : Nat) =>
      2 * (byteAt (plane + 8) / 2 ^ (7 - c) % 2) + byteAt plane / 2 ^ (7 - c) % 2
    (∀ px : Nat,
      let v := (incCoarseX^[(s.ppu.x.toNat + px) / 8] s.ppu.v).toNat
      let tile := byteAt (0x2000 + v % 0x1000)
      let attr := byteAt (0x23C0 + 0x400 * (v / 0x400 % 4) + 8 * (v / 32 % 32 / 4) + v % 32 / 4)
      let pal := attr / 2 ^ (4 * (v / 32 % 32 / 2 % 2) + 2 * (v % 32 / 2 % 2)) % 4
      let ci := index ((if s.ppu.ctrl1.getLsbD 4 then 0x1000 else 0) + 16 * tile + v / 0x1000)
        ((s.ppu.x.toNat + px) % 8)
      (bgPixelAt s px).color.toNat = byteAt (if ci = 0 then 0x3F00 else 0x3F00 + 4 * pal + ci)
      ∧ (bgPixelAt s px).bgOpaque = decide (ci ≠ 0))
    ∧ (∀ sl i px : Nat,
      let y := (cellRead s.oam (4 * i)).toNat
      let tile := (cellRead s.oam (4 * i + 1)).toNat
      let attr := cellRead s.oam (4 * i + 2)
      let x := (cellRead s.oam (4 * i + 3)).toNat
      let row := if attr.getLsbD 7 then 7 - (sl - (y + 1)) else sl - (y + 1)
      let ci := index ((if s.ppu.ctrl1.getLsbD 3 then 0x1000 else 0) + 16 * tile + row)
        (if attr.getLsbD 6 then 7 - (px - x) else px - x)
      y + 1 ≤ sl → sl ≤ y + 8 →
      spriteOpaqueAt s sl i px = decide (x ≤ px ∧ px ≤ x + 7 ∧ ci ≠ 0)
      ∧ (spriteColorAt s sl i px).map BitVec.toNat
          = if (x ≤ px ∧ px ≤ x + 7 ∧ ci ≠ 0)
              ∧ ¬(attr.getLsbD 5 = true ∧ (bgPixelAt s px).bgOpaque = true) then
              some (byteAt (0x3F10 + 4 * (attr.toNat % 4) + ci))
            else none)
end

