-- ==== Sys2Proof/Laws/Encoding.lean ====
section
/-! SUPPORT. The fields of a packed word, the word its fields make, and the ranges the decoder gives
its operands. -/

namespace Sys2Proof

theorem shift_or_eq_add (k x y : Nat) (h : y < 2 ^ k) : (x <<< k) ||| y = x * 2 ^ k + y := by
  rw [← Nat.shiftLeft_add_eq_or_of_lt h, Nat.shiftLeft_eq]

section
variable (p : BitVec 2) (rw : Bool) (a : Addr) (d : Byte)

/-- The number of a word (30_encoding.md R110). -/
theorem toNat_packWord : (packWord p rw a d).toNat
    = p.toNat * 2 ^ 30 + (rw.toNat * 2 ^ 29 + (a.toNat * 2 ^ 8 + d.toNat)) := by
  have hp := p.isLt; have ha := a.isLt; have hd := d.isLt; have hr := Bool.toNat_lt rw
  have e1 : (p.setWidth 32 <<< 30).toNat = p.toNat <<< 30 := by
    simp [BitVec.toNat_shiftLeft, Nat.shiftLeft_eq]; omega
  have e2 : ((BitVec.ofBool rw).setWidth 32 <<< 29).toNat = rw.toNat <<< 29 := by
    cases rw <;> rfl
  have e3 : (a.setWidth 32 <<< 8).toNat = a.toNat <<< 8 := by
    simp [BitVec.toNat_shiftLeft, Nat.shiftLeft_eq]; omega
  have e4 : (d.setWidth 32).toNat = d.toNat := by simp; omega
  rw [packWord, BitVec.toNat_or, BitVec.toNat_or, BitVec.toNat_or, e1, e2, e3, e4,
    Nat.or_assoc, Nat.or_assoc, shift_or_eq_add 8 a.toNat d.toNat hd,
    shift_or_eq_add 29 _ _ (by omega), shift_or_eq_add 30 _ _ (by omega)]

@[simp] theorem portField_packWord : portField (packWord p rw a d) = p := by
  apply BitVec.eq_of_toNat_eq
  have hp := p.isLt; have ha := a.isLt; have hd := d.isLt; have hr := Bool.toNat_lt rw
  simp only [portField, BitVec.extractLsb'_toNat, toNat_packWord, Nat.shiftRight_eq_div_pow]
  omega

@[simp] theorem rwField_packWord : rwField (packWord p rw a d) = rw := by
  have hp := p.isLt; have ha := a.isLt; have hd := d.isLt
  rw [rwField, BitVec.getLsbD, toNat_packWord, Nat.testBit_eq_decide_div_mod_eq]
  cases rw <;> simp <;> omega

@[simp] theorem rsvField_packWord : rsvField (packWord p rw a d) = 0#5 := by
  apply BitVec.eq_of_toNat_eq
  have hp := p.isLt; have ha := a.isLt; have hd := d.isLt; have hr := Bool.toNat_lt rw
  simp only [rsvField, BitVec.extractLsb'_toNat, toNat_packWord, Nat.shiftRight_eq_div_pow,
    BitVec.toNat_ofNat]
  omega

@[simp] theorem addrField_packWord : addrField (packWord p rw a d) = a := by
  apply BitVec.eq_of_toNat_eq
  have hp := p.isLt; have ha := a.isLt; have hd := d.isLt; have hr := Bool.toNat_lt rw
  simp only [addrField, BitVec.extractLsb'_toNat, toNat_packWord, Nat.shiftRight_eq_div_pow]
  omega

@[simp] theorem dataField_packWord : dataField (packWord p rw a d) = d := by
  apply BitVec.eq_of_toNat_eq
  have hp := p.isLt; have ha := a.isLt; have hd := d.isLt; have hr := Bool.toNat_lt rw
  simp only [dataField, BitVec.extractLsb'_toNat, toNat_packWord, Nat.shiftRight_eq_div_pow]
  omega

end

theorem toNat_rwField (w : TransactionWord) : (rwField w).toNat = w.toNat / 2 ^ 29 % 2 := by
  rw [rwField, BitVec.getLsbD, Nat.testBit_eq_decide_div_mod_eq]
  rcases Nat.mod_two_eq_zero_or_one (w.toNat / 2 ^ 29) with e | e <;> simp only [e] <;> rfl

/-- A word with no reserved bit set is the word its fields make. -/
theorem packWord_fields (w : TransactionWord) (h : rsvField w = 0#5) :
    packWord (portField w) (rwField w) (addrField w) (dataField w) = w := by
  apply BitVec.eq_of_toNat_eq
  have hw := w.isLt
  have h' := congrArg BitVec.toNat h
  simp only [rsvField, BitVec.extractLsb'_toNat, Nat.shiftRight_eq_div_pow, BitVec.toNat_ofNat]
    at h'
  simp only [toNat_packWord, toNat_rwField, portField, addrField, dataField,
    BitVec.extractLsb'_toNat, Nat.shiftRight_eq_div_pow]
  omega

/-! ### The ranges of decoded operands -/

/-- The 14-bit address as a number (20_memory.md R63). -/
theorem toNat_and_3FFF (a : Addr) : (a &&& 0x3FFF#16).toNat = a.toNat % 2 ^ 14 := by
  rw [BitVec.toNat_and]; exact Nat.and_two_pow_sub_one_eq_mod a.toNat 14

/-- The nametable mask of R104 as a range. -/
theorem and_2000_eq_iff (a : Addr) :
    (a &&& 0x2000#16 = 0x2000#16) ↔ 0x2000 ≤ a.toNat % 2 ^ 14 := by
  rw [← BitVec.toNat_inj, BitVec.toNat_and]
  have hpow : (0x2000#16).toNat = 2 ^ 13 := rfl
  rw [hpow, Nat.and_two_pow, Nat.testBit_eq_decide_div_mod_eq]
  by_cases h : a.toNat / 2 ^ 13 % 2 = 1
  · simp; omega
  · have h0 : a.toNat / 2 ^ 13 % 2 = 0 := by omega
    simp; omega

/-- The palette mask of R104 as a range. -/
theorem and_3F00_eq_iff (a : Addr) :
    (a &&& 0x3F00#16 = 0x3F00#16) ↔ 0x3F00 ≤ a.toNat % 2 ^ 14 := by
  have key : (a &&& 0x3F00#16).toNat = a.toNat % 2 ^ 14 / 2 ^ 8 * 2 ^ 8 := by
    have hbits : a &&& 0x3F00#16 = ((a &&& 0x3FFF#16) >>> 8) <<< 8 := by
      ext i hi
      have : i < 16 := hi
      interval_cases i <;> simp
    rw [hbits, BitVec.toNat_shiftLeft, BitVec.toNat_ushiftRight, toNat_and_3FFF,
      Nat.shiftLeft_eq, Nat.shiftRight_eq_div_pow]
    omega
  have hpow : (0x3F00#16).toNat = 0x3F00 := rfl
  rw [← BitVec.toNat_inj, key, hpow]
  omega

/-- The region of an address, by the ranges of R104. -/
theorem ppuRegion_eq (a : Addr) : ppuRegion a =
    if 0x3F00 ≤ a.toNat % 2 ^ 14 then .palette
    else if 0x2000 ≤ a.toNat % 2 ^ 14 then .nametable else .pattern := by
  simp only [ppuRegion, and_3F00_eq_iff, and_2000_eq_iff]

/-- The PB rows by ranges (30_encoding.md R104). -/
theorem decodeBusRead_eq (a : Addr) : decodeBusRead a =
    if 0x3F00 ≤ a.toNat % 2 ^ 14 then .pbRdPal a
    else if 0x2000 ≤ a.toNat % 2 ^ 14 then .pbRdNt a else .pbRdPat a := by
  rw [decodeBusRead, ppuRegion_eq]
  split_ifs <;> rfl

theorem decodeBusWrite_eq (a : Addr) (d : Byte) : decodeBusWrite a d =
    if 0x3F00 ≤ a.toNat % 2 ^ 14 then .pbWrPal a d
    else if 0x2000 ≤ a.toNat % 2 ^ 14 then .pbWrNt a d else .pbWrPat a d := by
  rw [decodeBusWrite, ppuRegion_eq]
  split_ifs <;> rfl

theorem within_iff (a : Addr) (lo hi : Nat) :
    a.within lo hi = true ↔ lo ≤ a.toNat ∧ a.toNat ≤ hi := by
  simp [Addr.within]

theorem busWithin_iff (a : Addr) (lo hi : Nat) :
    a.busWithin lo hi = true ↔ lo ≤ a.toNat % 2 ^ 14 ∧ a.toNat % 2 ^ 14 ≤ hi := by
  simp only [Addr.busWithin, within_iff, toNat_and_3FFF]

/-- An index below 8 is one of eight numbers. -/
theorem addr_eq_of_lt_eight (a : Addr) (h : ¬ 8 ≤ a.toNat) :
    a = 0#16 ∨ a = 1#16 ∨ a = 2#16 ∨ a = 3#16 ∨ a = 4#16 ∨ a = 5#16 ∨ a = 6#16 ∨ a = 7#16 := by
  simp only [← BitVec.toNat_inj, BitVec.toNat_ofNat]
  omega

theorem decodeRegister_wf (rw : Bool) (a : Addr) (d : Byte) :
    (decodeRegister rw a d).wf = true := by
  have ha := a.isLt
  by_cases h : 8 ≤ a.toNat
  · simp only [decodeRegister, if_pos h, Instr.wf, within_iff]; omega
  · rcases addr_eq_of_lt_eight a h with rfl | rfl | rfl | rfl | rfl | rfl | rfl | rfl <;>
      cases rw <;> rfl

theorem decodeCpuRead_wf (a : Addr) : (decodeCpuRead a).wf = true := by
  have ha := a.isLt
  unfold decodeCpuRead
  split_ifs <;> simp only [Instr.wf, within_iff] <;> omega

theorem decodeCpuWrite_wf (a : Addr) (d : Byte) : (decodeCpuWrite a d).wf = true := by
  have ha := a.isLt
  unfold decodeCpuWrite
  split_ifs <;> simp only [Instr.wf, within_iff] <;> omega

theorem decodeBusRead_wf (a : Addr) : (decodeBusRead a).wf = true := by
  have ha := Nat.mod_lt a.toNat (show 0 < 2 ^ 14 by decide)
  unfold decodeBusRead
  rw [ppuRegion_eq]
  split_ifs <;> simp only [Instr.wf, busWithin_iff] <;> omega

theorem decodeBusWrite_wf (a : Addr) (d : Byte) : (decodeBusWrite a d).wf = true := by
  have ha := Nat.mod_lt a.toNat (show 0 < 2 ^ 14 by decide)
  unfold decodeBusWrite
  rw [ppuRegion_eq]
  split_ifs <;> simp only [Instr.wf, busWithin_iff] <;> omega

/-! ### The decoder, port by port -/

section
variable {w : TransactionWord} (hr : rsvField w = 0#5)
include hr

theorem decodeWord_register (hp : portField w = 0#2) :
    decodeWord w = .ok (decodeRegister (rwField w) (addrField w) (dataField w)) := by
  rw [decodeWord, if_neg (not_not.2 hr), if_pos hp]

theorem decodeWord_cpuWrite (hp : portField w = 1#2) (hw : rwField w = true) :
    decodeWord w = .ok (decodeCpuWrite (addrField w) (dataField w)) := by
  rw [decodeWord, if_neg (not_not.2 hr), if_neg (by rw [hp]; decide), if_pos hp, if_pos hw]

theorem decodeWord_cpuRead (hp : portField w = 1#2) (hw : rwField w = false) :
    decodeWord w = .ok (decodeCpuRead (addrField w)) := by
  rw [decodeWord, if_neg (not_not.2 hr), if_neg (by rw [hp]; decide), if_pos hp,
    if_neg (by rw [hw]; decide)]

theorem decodeWord_busWrite (hp : portField w = 2#2) (hw : rwField w = true) :
    decodeWord w = .ok (decodeBusWrite (addrField w) (dataField w)) := by
  rw [decodeWord, if_neg (not_not.2 hr), if_neg (by rw [hp]; decide), if_neg (by rw [hp]; decide),
    if_pos hp, if_pos hw]

theorem decodeWord_busRead (hp : portField w = 2#2) (hw : rwField w = false) :
    decodeWord w = .ok (decodeBusRead (addrField w)) := by
  rw [decodeWord, if_neg (not_not.2 hr), if_neg (by rw [hp]; decide), if_neg (by rw [hp]; decide),
    if_pos hp, if_neg (by rw [hw]; decide)]

theorem decodeWord_control (hp : portField w = 3#2) :
    decodeWord w = decodeControl (rwField w) (addrField w) := by
  rw [decodeWord, if_neg (not_not.2 hr), if_neg (by rw [hp]; decide), if_neg (by rw [hp]; decide),
    if_neg (by rw [hp]; decide)]

end

/-- What the decoder gives: one of the five maps of 30_encoding.md section 2. -/
theorem decodeWord_ok {w : TransactionWord} {i : Instr} (h : decodeWord w = .ok i) :
    rsvField w = 0#5 ∧
    ((portField w = 0#2 ∧ i = decodeRegister (rwField w) (addrField w) (dataField w))
    ∨ (portField w = 1#2 ∧ rwField w = true ∧ i = decodeCpuWrite (addrField w) (dataField w))
    ∨ (portField w = 1#2 ∧ rwField w = false ∧ i = decodeCpuRead (addrField w))
    ∨ (portField w = 2#2 ∧ rwField w = true ∧ i = decodeBusWrite (addrField w) (dataField w))
    ∨ (portField w = 2#2 ∧ rwField w = false ∧ i = decodeBusRead (addrField w))
    ∨ (portField w = 3#2 ∧ rwField w = true ∧ addrField w = 0#16 ∧ i = .tick)
    ∨ (portField w = 3#2 ∧ rwField w = true ∧ addrField w = 1#16 ∧ i = .nmiAck)) := by
  unfold decodeWord at h
  split_ifs at h with hr h0 h1 hw h2 hw'
  · refine ⟨by simpa using hr, .inl ⟨h0, ?_⟩⟩
    simpa using h.symm
  · exact ⟨by simpa using hr, .inr (.inl ⟨h1, hw, by simpa using h.symm⟩)⟩
  · exact ⟨by simpa using hr, .inr (.inr (.inl ⟨h1, by simpa using hw, by simpa using h.symm⟩))⟩
  · exact ⟨by simpa using hr,
      .inr (.inr (.inr (.inl ⟨h2, hw', by simpa using h.symm⟩)))⟩
  · exact ⟨by simpa using hr,
      .inr (.inr (.inr (.inr (.inl ⟨h2, by simpa using hw', by simpa using h.symm⟩))))⟩
  · have h3 : portField w = 3#2 := by
      have hp := (portField w).isLt
      apply BitVec.eq_of_toNat_eq
      rw [← BitVec.toNat_inj] at h0 h1 h2
      simp only [BitVec.toNat_ofNat] at h0 h1 h2 ⊢
      omega
    refine ⟨by simpa using hr, ?_⟩
    unfold decodeControl at h
    split_ifs at h <;> simp_all

/-- Every transaction the decoder gives is well formed. -/
theorem decodeWord_wf {w : TransactionWord} {i : Instr} (h : decodeWord w = .ok i) :
    i.wf = true := by
  obtain ⟨_, ⟨_, rfl⟩ | ⟨_, _, rfl⟩ | ⟨_, _, rfl⟩ | ⟨_, _, rfl⟩ | ⟨_, _, rfl⟩
    | ⟨_, _, _, rfl⟩ | ⟨_, _, _, rfl⟩⟩ := decodeWord_ok h
  · exact decodeRegister_wf _ _ _
  · exact decodeCpuWrite_wf _ _
  · exact decodeCpuRead_wf _
  · exact decodeBusWrite_wf _ _
  · exact decodeBusRead_wf _
  · rfl
  · rfl

end Sys2Proof
end

