-- ==== Sys2Proof/Laws/Memory.lean ====
section
/-! SUPPORT. Memory cells: a read after a write, and the canonical form. -/

namespace Sys2Proof.Machine

/-- A read after a write: the byte written at that address, every other address as before. -/
theorem cellRead_cellWrite (m : Memory) (a b : Nat) (d : Byte) (lo size : Nat)
    (h : Memory.wfFrom size lo m = true) :
    cellRead (cellWrite m a d) b = if b = a then d else cellRead m b := by
  induction m generalizing lo with
  | nil =>
    by_cases hd : d = unlistedByte
    · by_cases hb : b = a <;> simp [cellWrite, cellRead, hd, hb]
    · by_cases hb : b = a
      · simp [cellWrite, cellRead, hd, hb]
      · simp [cellWrite, cellRead, hd, hb, Ne.symm hb]
  | cons c rest ih =>
    obtain ⟨k, e⟩ := c
    simp only [Memory.wfFrom, Bool.and_eq_true, decide_eq_true_eq] at h
    obtain ⟨⟨⟨_, _⟩, _⟩, hrest⟩ := h
    rcases Nat.lt_trichotomy k a with hlt | heq | hgt
    · have := ih (k + 1) hrest
      by_cases hk : k = b
      · subst hk
        simp [cellWrite, cellRead, hlt, Nat.ne_of_lt hlt]
      · simp [cellWrite, cellRead, hlt, hk, this]
    · subst heq
      have hgone : cellRead rest k = unlistedByte := cellRead_below rest (k + 1) size hrest k (by omega)
      by_cases hd : d = unlistedByte
      · by_cases hb : b = k
        · subst hb; simp [cellWrite, hd, hgone]
        · simp [cellWrite, cellRead, hd, hb, Ne.symm hb]
      · by_cases hb : b = k
        · subst hb; simp [cellWrite, cellRead, hd]
        · simp [cellWrite, cellRead, hd, hb, Ne.symm hb]
    · have hne : k ≠ a := Nat.ne_of_gt hgt
      have hnlt : ¬ k < a := by omega
      have hgone : cellRead rest a = unlistedByte :=
        cellRead_below rest (k + 1) size hrest a (by omega)
      by_cases hd : d = unlistedByte
      · by_cases hb : b = a
        · subst hb; simp [cellWrite, cellRead, hd, hnlt, hne, hgone]
        · simp [cellWrite, hd, hnlt, hne, hb]
      · by_cases hb : b = a
        · subst hb; simp [cellWrite, cellRead, hd, hnlt, hne]
        · simp [cellWrite, cellRead, hd, hnlt, hne, hb, Ne.symm hb]
where
  /-- Nothing is listed below the lower bound of the form. -/
  cellRead_below : ∀ (m : Memory) (lo size : Nat), Memory.wfFrom size lo m = true →
      ∀ a, a < lo → cellRead m a = unlistedByte
    | [], _, _, _, _, _ => rfl
    | (k, e) :: rest, lo, size, h, a, ha => by
      simp only [Memory.wfFrom, Bool.and_eq_true, decide_eq_true_eq] at h
      obtain ⟨⟨⟨hlo, _⟩, _⟩, hrest⟩ := h
      have hne : k ≠ a := by omega
      simp [cellRead, hne, cellRead_below rest (k + 1) size hrest a (by omega)]

/-- `cellRead_cellWrite` for a memory in canonical form. -/
theorem cellRead_cellWrite_of_wf {size : Nat} {m : Memory} (h : Memory.wf size m = true)
    (a b : Nat) (d : Byte) :
    cellRead (cellWrite m a d) b = if b = a then d else cellRead m b :=
  cellRead_cellWrite m a b d 0 size h

/-- A lower bound of the form may be lowered. -/
theorem Memory.wfFrom_mono {size lo lo' : Nat} {m : Memory} (hle : lo' ≤ lo)
    (h : Memory.wfFrom size lo m = true) : Memory.wfFrom size lo' m = true := by
  cases m with
  | nil => rfl
  | cons c rest =>
    obtain ⟨k, e⟩ := c
    simp only [Memory.wfFrom, Bool.and_eq_true, decide_eq_true_eq] at h ⊢
    exact ⟨⟨⟨by omega, h.1.1.2⟩, h.1.2⟩, h.2⟩

/-- A write inside the size keeps the canonical form. -/
theorem wfFrom_cellWrite {size a : Nat} (ha : a < size) (d : Byte) :
    ∀ (m : Memory) (lo : Nat), lo ≤ a → Memory.wfFrom size lo m = true →
      Memory.wfFrom size lo (cellWrite m a d) = true
  | [], lo, hlo, _ => by
    by_cases hd : d = unlistedByte <;> simp [cellWrite, Memory.wfFrom, hd, hlo, ha]
  | (k, e) :: rest, lo, hlo, h => by
    have hall := h
    simp only [Memory.wfFrom, Bool.and_eq_true, decide_eq_true_eq] at h
    obtain ⟨⟨⟨hk, hks⟩, he⟩, hrest⟩ := h
    rcases Nat.lt_trichotomy k a with hlt | heq | hgt
    · have := wfFrom_cellWrite ha d rest (k + 1) (by omega) hrest
      simp [cellWrite, hlt, Memory.wfFrom, hk, hks, he, this]
    · subst heq
      by_cases hd : d = unlistedByte
      · have := Memory.wfFrom_mono (lo' := lo) (by omega) hrest
        simp [cellWrite, hd, this]
      · simp [cellWrite, hd, Memory.wfFrom, hk, hks, hrest]
    · have hne : k ≠ a := Nat.ne_of_gt hgt
      have hnlt : ¬ k < a := by omega
      by_cases hd : d = unlistedByte
      · simpa [cellWrite, hd, hnlt, hne] using hall
      · have hk' : a + 1 ≤ k := by omega
        simp [cellWrite, hd, hnlt, hne, Memory.wfFrom, hlo, ha, hk', hks, he, hrest]

/-- Every memory operation of the model keeps the canonical form: the write inside the size. -/
theorem wf_cellWrite {size a : Nat} {m : Memory} (h : Memory.wf size m = true) (ha : a < size)
    (d : Byte) : Memory.wf size (cellWrite m a d) = true :=
  wfFrom_cellWrite ha d m 0 (Nat.zero_le a) h

/-- The empty memory is in canonical form. -/
@[simp] theorem wf_nil (size : Nat) : Memory.wf size [] = true := rfl

/-- Two memories in canonical form that read the same everywhere are equal. -/
theorem memory_ext {size : Nat} : ∀ (m n : Memory) (lo : Nat), Memory.wfFrom size lo m = true →
    Memory.wfFrom size lo n = true → (∀ a, cellRead m a = cellRead n a) → m = n
  | [], [], _, _, _, _ => rfl
  | [], (k, e) :: rest, _, _, hn, hr => by
    simp only [Memory.wfFrom, Bool.and_eq_true, decide_eq_true_eq] at hn
    have := hr k
    simp [cellRead] at this
    exact absurd this.symm hn.1.2
  | (k, e) :: rest, [], _, hm, _, hr => by
    simp only [Memory.wfFrom, Bool.and_eq_true, decide_eq_true_eq] at hm
    have := hr k
    simp [cellRead] at this
    exact absurd this hm.1.2
  | (k, e) :: m, (l, f) :: n, lo, hm, hn, hr => by
    simp only [Memory.wfFrom, Bool.and_eq_true, decide_eq_true_eq] at hm hn
    obtain ⟨⟨⟨_, _⟩, he⟩, hm'⟩ := hm
    obtain ⟨⟨⟨_, _⟩, hf⟩, hn'⟩ := hn
    have below := cellRead_cellWrite.cellRead_below
    rcases Nat.lt_trichotomy k l with hlt | heq | hgt
    · have h1 := hr k
      have h2 := below n (l + 1) size hn' k (by omega)
      simp [cellRead, h2, Nat.ne_of_gt hlt] at h1
      exact absurd h1 he
    · subst heq
      have h1 := hr k
      simp [cellRead] at h1
      subst h1
      have : m = n := by
        refine memory_ext m n (k + 1) hm' hn' (fun a => ?_)
        by_cases ha : k = a
        · subst ha
          rw [below m (k + 1) size hm' k (by omega), below n (k + 1) size hn' k (by omega)]
        · simpa [cellRead, ha] using hr a
      rw [this]
    · have h1 := hr l
      have h2 := below m (k + 1) size hm' l (by omega)
      simp [cellRead, h2, Nat.ne_of_gt hgt] at h1
      exact absurd h1.symm hf

end Sys2Proof.Machine
end

