-- ==== Sys2Proof/Laws/State.lean ====
section
/-! SUPPORT. One lemma per field per update of State, so that no proof unfolds a record update. -/

namespace Sys2Proof.Machine.State

section setPpu
variable (s : State) (z : Ppu)
@[simp] theorem setPpu_ppu : (s.setPpu z).ppu = z := rfl
@[simp] theorem setPpu_oam : (s.setPpu z).oam = s.oam := rfl
@[simp] theorem setPpu_prg : (s.setPpu z).prg = s.prg := rfl
@[simp] theorem setPpu_chr : (s.setPpu z).chr = s.chr := rfl
@[simp] theorem setPpu_chrRam : (s.setPpu z).chrRam = s.chrRam := rfl
@[simp] theorem setPpu_prgRam : (s.setPpu z).prgRam = s.prgRam := rfl
@[simp] theorem setPpu_ntRam : (s.setPpu z).ntRam = s.ntRam := rfl
@[simp] theorem setPpu_palRam : (s.setPpu z).palRam = s.palRam := rfl
@[simp] theorem setPpu_prgRamUnits : (s.setPpu z).prgRamUnits = s.prgRamUnits := rfl
@[simp] theorem setPpu_mapper : (s.setPpu z).mapper = s.mapper := rfl
@[simp] theorem setPpu_params : (s.setPpu z).params = s.params := rfl
@[simp] theorem setPpu_fault : (s.setPpu z).fault = s.fault := rfl
@[simp] theorem setPpu_pending : (s.setPpu z).pending = s.pending := rfl
@[simp] theorem setPpu_result : (s.setPpu z).result = s.result := rfl
end setPpu

section setOam
variable (s : State) (z : Memory)
@[simp] theorem setOam_ppu : (s.setOam z).ppu = s.ppu := rfl
@[simp] theorem setOam_oam : (s.setOam z).oam = z := rfl
@[simp] theorem setOam_prg : (s.setOam z).prg = s.prg := rfl
@[simp] theorem setOam_chr : (s.setOam z).chr = s.chr := rfl
@[simp] theorem setOam_chrRam : (s.setOam z).chrRam = s.chrRam := rfl
@[simp] theorem setOam_prgRam : (s.setOam z).prgRam = s.prgRam := rfl
@[simp] theorem setOam_ntRam : (s.setOam z).ntRam = s.ntRam := rfl
@[simp] theorem setOam_palRam : (s.setOam z).palRam = s.palRam := rfl
@[simp] theorem setOam_prgRamUnits : (s.setOam z).prgRamUnits = s.prgRamUnits := rfl
@[simp] theorem setOam_mapper : (s.setOam z).mapper = s.mapper := rfl
@[simp] theorem setOam_params : (s.setOam z).params = s.params := rfl
@[simp] theorem setOam_fault : (s.setOam z).fault = s.fault := rfl
@[simp] theorem setOam_pending : (s.setOam z).pending = s.pending := rfl
@[simp] theorem setOam_result : (s.setOam z).result = s.result := rfl
end setOam

section setChrRam
variable (s : State) (z : Memory)
@[simp] theorem setChrRam_ppu : (s.setChrRam z).ppu = s.ppu := rfl
@[simp] theorem setChrRam_oam : (s.setChrRam z).oam = s.oam := rfl
@[simp] theorem setChrRam_prg : (s.setChrRam z).prg = s.prg := rfl
@[simp] theorem setChrRam_chr : (s.setChrRam z).chr = s.chr := rfl
@[simp] theorem setChrRam_chrRam : (s.setChrRam z).chrRam = z := rfl
@[simp] theorem setChrRam_prgRam : (s.setChrRam z).prgRam = s.prgRam := rfl
@[simp] theorem setChrRam_ntRam : (s.setChrRam z).ntRam = s.ntRam := rfl
@[simp] theorem setChrRam_palRam : (s.setChrRam z).palRam = s.palRam := rfl
@[simp] theorem setChrRam_prgRamUnits : (s.setChrRam z).prgRamUnits = s.prgRamUnits := rfl
@[simp] theorem setChrRam_mapper : (s.setChrRam z).mapper = s.mapper := rfl
@[simp] theorem setChrRam_params : (s.setChrRam z).params = s.params := rfl
@[simp] theorem setChrRam_fault : (s.setChrRam z).fault = s.fault := rfl
@[simp] theorem setChrRam_pending : (s.setChrRam z).pending = s.pending := rfl
@[simp] theorem setChrRam_result : (s.setChrRam z).result = s.result := rfl
end setChrRam

section setPrgRam
variable (s : State) (z : Memory)
@[simp] theorem setPrgRam_ppu : (s.setPrgRam z).ppu = s.ppu := rfl
@[simp] theorem setPrgRam_oam : (s.setPrgRam z).oam = s.oam := rfl
@[simp] theorem setPrgRam_prg : (s.setPrgRam z).prg = s.prg := rfl
@[simp] theorem setPrgRam_chr : (s.setPrgRam z).chr = s.chr := rfl
@[simp] theorem setPrgRam_chrRam : (s.setPrgRam z).chrRam = s.chrRam := rfl
@[simp] theorem setPrgRam_prgRam : (s.setPrgRam z).prgRam = z := rfl
@[simp] theorem setPrgRam_ntRam : (s.setPrgRam z).ntRam = s.ntRam := rfl
@[simp] theorem setPrgRam_palRam : (s.setPrgRam z).palRam = s.palRam := rfl
@[simp] theorem setPrgRam_prgRamUnits : (s.setPrgRam z).prgRamUnits = s.prgRamUnits := rfl
@[simp] theorem setPrgRam_mapper : (s.setPrgRam z).mapper = s.mapper := rfl
@[simp] theorem setPrgRam_params : (s.setPrgRam z).params = s.params := rfl
@[simp] theorem setPrgRam_fault : (s.setPrgRam z).fault = s.fault := rfl
@[simp] theorem setPrgRam_pending : (s.setPrgRam z).pending = s.pending := rfl
@[simp] theorem setPrgRam_result : (s.setPrgRam z).result = s.result := rfl
end setPrgRam

section setNtRam
variable (s : State) (z : Memory)
@[simp] theorem setNtRam_ppu : (s.setNtRam z).ppu = s.ppu := rfl
@[simp] theorem setNtRam_oam : (s.setNtRam z).oam = s.oam := rfl
@[simp] theorem setNtRam_prg : (s.setNtRam z).prg = s.prg := rfl
@[simp] theorem setNtRam_chr : (s.setNtRam z).chr = s.chr := rfl
@[simp] theorem setNtRam_chrRam : (s.setNtRam z).chrRam = s.chrRam := rfl
@[simp] theorem setNtRam_prgRam : (s.setNtRam z).prgRam = s.prgRam := rfl
@[simp] theorem setNtRam_ntRam : (s.setNtRam z).ntRam = z := rfl
@[simp] theorem setNtRam_palRam : (s.setNtRam z).palRam = s.palRam := rfl
@[simp] theorem setNtRam_prgRamUnits : (s.setNtRam z).prgRamUnits = s.prgRamUnits := rfl
@[simp] theorem setNtRam_mapper : (s.setNtRam z).mapper = s.mapper := rfl
@[simp] theorem setNtRam_params : (s.setNtRam z).params = s.params := rfl
@[simp] theorem setNtRam_fault : (s.setNtRam z).fault = s.fault := rfl
@[simp] theorem setNtRam_pending : (s.setNtRam z).pending = s.pending := rfl
@[simp] theorem setNtRam_result : (s.setNtRam z).result = s.result := rfl
end setNtRam

section setPalRam
variable (s : State) (z : Memory)
@[simp] theorem setPalRam_ppu : (s.setPalRam z).ppu = s.ppu := rfl
@[simp] theorem setPalRam_oam : (s.setPalRam z).oam = s.oam := rfl
@[simp] theorem setPalRam_prg : (s.setPalRam z).prg = s.prg := rfl
@[simp] theorem setPalRam_chr : (s.setPalRam z).chr = s.chr := rfl
@[simp] theorem setPalRam_chrRam : (s.setPalRam z).chrRam = s.chrRam := rfl
@[simp] theorem setPalRam_prgRam : (s.setPalRam z).prgRam = s.prgRam := rfl
@[simp] theorem setPalRam_ntRam : (s.setPalRam z).ntRam = s.ntRam := rfl
@[simp] theorem setPalRam_palRam : (s.setPalRam z).palRam = z := rfl
@[simp] theorem setPalRam_prgRamUnits : (s.setPalRam z).prgRamUnits = s.prgRamUnits := rfl
@[simp] theorem setPalRam_mapper : (s.setPalRam z).mapper = s.mapper := rfl
@[simp] theorem setPalRam_params : (s.setPalRam z).params = s.params := rfl
@[simp] theorem setPalRam_fault : (s.setPalRam z).fault = s.fault := rfl
@[simp] theorem setPalRam_pending : (s.setPalRam z).pending = s.pending := rfl
@[simp] theorem setPalRam_result : (s.setPalRam z).result = s.result := rfl
end setPalRam

section setMapper
variable (s : State) (z : Mapper)
@[simp] theorem setMapper_ppu : (s.setMapper z).ppu = s.ppu := rfl
@[simp] theorem setMapper_oam : (s.setMapper z).oam = s.oam := rfl
@[simp] theorem setMapper_prg : (s.setMapper z).prg = s.prg := rfl
@[simp] theorem setMapper_chr : (s.setMapper z).chr = s.chr := rfl
@[simp] theorem setMapper_chrRam : (s.setMapper z).chrRam = s.chrRam := rfl
@[simp] theorem setMapper_prgRam : (s.setMapper z).prgRam = s.prgRam := rfl
@[simp] theorem setMapper_ntRam : (s.setMapper z).ntRam = s.ntRam := rfl
@[simp] theorem setMapper_palRam : (s.setMapper z).palRam = s.palRam := rfl
@[simp] theorem setMapper_prgRamUnits : (s.setMapper z).prgRamUnits = s.prgRamUnits := rfl
@[simp] theorem setMapper_mapper : (s.setMapper z).mapper = z := rfl
@[simp] theorem setMapper_params : (s.setMapper z).params = s.params := rfl
@[simp] theorem setMapper_fault : (s.setMapper z).fault = s.fault := rfl
@[simp] theorem setMapper_pending : (s.setMapper z).pending = s.pending := rfl
@[simp] theorem setMapper_result : (s.setMapper z).result = s.result := rfl
end setMapper

section setFault
variable (s : State) (z : Option Fault)
@[simp] theorem setFault_ppu : (s.setFault z).ppu = s.ppu := rfl
@[simp] theorem setFault_oam : (s.setFault z).oam = s.oam := rfl
@[simp] theorem setFault_prg : (s.setFault z).prg = s.prg := rfl
@[simp] theorem setFault_chr : (s.setFault z).chr = s.chr := rfl
@[simp] theorem setFault_chrRam : (s.setFault z).chrRam = s.chrRam := rfl
@[simp] theorem setFault_prgRam : (s.setFault z).prgRam = s.prgRam := rfl
@[simp] theorem setFault_ntRam : (s.setFault z).ntRam = s.ntRam := rfl
@[simp] theorem setFault_palRam : (s.setFault z).palRam = s.palRam := rfl
@[simp] theorem setFault_prgRamUnits : (s.setFault z).prgRamUnits = s.prgRamUnits := rfl
@[simp] theorem setFault_mapper : (s.setFault z).mapper = s.mapper := rfl
@[simp] theorem setFault_params : (s.setFault z).params = s.params := rfl
@[simp] theorem setFault_fault : (s.setFault z).fault = z := rfl
@[simp] theorem setFault_pending : (s.setFault z).pending = s.pending := rfl
@[simp] theorem setFault_result : (s.setFault z).result = s.result := rfl
end setFault

section setPending
variable (s : State) (z : List TransactionWord)
@[simp] theorem setPending_ppu : (s.setPending z).ppu = s.ppu := rfl
@[simp] theorem setPending_oam : (s.setPending z).oam = s.oam := rfl
@[simp] theorem setPending_prg : (s.setPending z).prg = s.prg := rfl
@[simp] theorem setPending_chr : (s.setPending z).chr = s.chr := rfl
@[simp] theorem setPending_chrRam : (s.setPending z).chrRam = s.chrRam := rfl
@[simp] theorem setPending_prgRam : (s.setPending z).prgRam = s.prgRam := rfl
@[simp] theorem setPending_ntRam : (s.setPending z).ntRam = s.ntRam := rfl
@[simp] theorem setPending_palRam : (s.setPending z).palRam = s.palRam := rfl
@[simp] theorem setPending_prgRamUnits : (s.setPending z).prgRamUnits = s.prgRamUnits := rfl
@[simp] theorem setPending_mapper : (s.setPending z).mapper = s.mapper := rfl
@[simp] theorem setPending_params : (s.setPending z).params = s.params := rfl
@[simp] theorem setPending_fault : (s.setPending z).fault = s.fault := rfl
@[simp] theorem setPending_pending : (s.setPending z).pending = z := rfl
@[simp] theorem setPending_result : (s.setPending z).result = s.result := rfl
end setPending

section setResult
variable (s : State) (z : Option Byte)
@[simp] theorem setResult_ppu : (s.setResult z).ppu = s.ppu := rfl
@[simp] theorem setResult_oam : (s.setResult z).oam = s.oam := rfl
@[simp] theorem setResult_prg : (s.setResult z).prg = s.prg := rfl
@[simp] theorem setResult_chr : (s.setResult z).chr = s.chr := rfl
@[simp] theorem setResult_chrRam : (s.setResult z).chrRam = s.chrRam := rfl
@[simp] theorem setResult_prgRam : (s.setResult z).prgRam = s.prgRam := rfl
@[simp] theorem setResult_ntRam : (s.setResult z).ntRam = s.ntRam := rfl
@[simp] theorem setResult_palRam : (s.setResult z).palRam = s.palRam := rfl
@[simp] theorem setResult_prgRamUnits : (s.setResult z).prgRamUnits = s.prgRamUnits := rfl
@[simp] theorem setResult_mapper : (s.setResult z).mapper = s.mapper := rfl
@[simp] theorem setResult_params : (s.setResult z).params = s.params := rfl
@[simp] theorem setResult_fault : (s.setResult z).fault = s.fault := rfl
@[simp] theorem setResult_pending : (s.setResult z).pending = s.pending := rfl
@[simp] theorem setResult_result : (s.setResult z).result = z := rfl
end setResult

end Sys2Proof.Machine.State
end

