-- ==== Sys2Proof/Laws/Ops.lean ====
section
/-! SUPPORT. What each shared operation can do, said once: the frame of a transaction, banks, places of
PPU space, the two address spaces and the serial port. -/

namespace Sys2Proof.Machine

/-! ### The frame of a transaction -/

theorem transact_running {f : State → State} {s : State} (h : s.Running) :
    transact f s = .next ((f s).setResult none) := by
  simp [transact, show s.fault = none from h]

theorem transactRead_running {f : State → Byte × State} {s : State} (h : s.Running) :
    transactRead f s = .next ((f s).2.setResult (some (f s).1)) := by
  simp [transactRead, show s.fault = none from h]

theorem transact_halted {f : State → State} {s : State} {r : Fault} (h : s.fault = some r) :
    transact f s = .next (s.setResult none) := by
  simp [transact, h]

theorem transactRead_halted {f : State → Byte × State} {s : State} {r : Fault}
    (h : s.fault = some r) : transactRead f s = .next (s.setResult none) := by
  simp [transactRead, h]

/-- A write transaction in any state: its effect in a running block, or only `result` cleared. -/
theorem transact_cases {f : State → State} {s t : State} (h : transact f s = .next t) :
    (s.Running ∧ t = (f s).setResult none) ∨ (s.fault ≠ none ∧ t = s.setResult none) := by
  unfold transact at h
  split at h <;> rename_i hf <;> cases h
  · exact .inl ⟨hf, rfl⟩
  · exact .inr ⟨by simp [hf], rfl⟩

/-- A read transaction in any state. -/
theorem transactRead_cases {f : State → Byte × State} {s t : State}
    (h : transactRead f s = .next t) :
    (s.Running ∧ t = (f s).2.setResult (some (f s).1)) ∨ (s.fault ≠ none ∧ t = s.setResult none) := by
  unfold transactRead at h
  split at h <;> rename_i hf <;> cases h
  · exact .inl ⟨hf, rfl⟩
  · exact .inr ⟨by simp [hf], rfl⟩

/-! ### Banks -/

theorem selectBank_lt {oor : OorPolicy} {count k : Nat} (h : k < count) :
    selectBank oor count k = some k := by
  simp [selectBank, h]

theorem selectBank_zeroFill {count k : Nat} (h : count ≤ k) :
    selectBank .zeroFill count k = none := by
  simp [selectBank, Nat.not_lt.2 h]

theorem selectBank_wrap {count k : Nat} (h : 0 < count) :
    selectBank .wrap count k = some (k % count) := by
  by_cases hk : k < count
  · simp [selectBank, hk, Nat.mod_eq_of_lt hk]
  · simp [selectBank, hk, Nat.ne_of_gt h]

/-- A ROM read: the bank when its number is in range, else what the policy says (20_memory.md R88). -/
theorem romByte_eq (oor : OorPolicy) (banks : List Rom) (k offset : Nat) (h : banks ≠ []) :
    romByte oor banks k offset =
      match banks[k]?, oor with
      | some rom, _ => cellRead rom.bytes offset
      | none, .zeroFill => 0x00#8
      | none, .wrap => cellRead ((banks[k % banks.length]?).elim [] Rom.bytes) offset := by
  have hpos : 0 < banks.length := List.length_pos_iff.2 h
  by_cases hk : k < banks.length
  · simp [romByte, selectBank_lt hk, List.getElem?_eq_getElem hk]
  · have hnone : banks[k]? = none := by simpa using Nat.not_lt.1 hk
    cases oor
    · simp [romByte, selectBank_zeroFill (Nat.not_lt.1 hk), hnone]
    · have hm : k % banks.length < banks.length := Nat.mod_lt _ hpos
      simp [romByte, selectBank_wrap hpos, hnone, List.getElem?_eq_getElem hm]

/-! ### Places of PPU space -/

theorem palIndex_lt (a : Addr) : palIndex a < 32 := by
  have h1 : (a &&& 0x1F#16).toNat < 32 := by
    rw [BitVec.toNat_and]
    exact Nat.lt_of_le_of_lt Nat.and_le_right (by decide)
  unfold palIndex
  dsimp only
  split_ifs
  · rw [BitVec.toNat_and]
    exact Nat.lt_of_le_of_lt Nat.and_le_right (by decide)
  · exact h1

theorem ntIndex_lt (m : NtMode) (a : Addr) : ntIndex m a < 2048 := by
  have h := (a.extractLsb' 0 10).isLt
  have hb : ntBlock m a ≤ 1 := by
    cases m <;> simp [ntBlock, Bool.toNat_le]
  unfold ntIndex
  omega

theorem mmc1ChrRamIndex_lt (m : Mmc1) (a : Addr) (ha : a.toNat < 0x2000) :
    mmc1ChrRamIndex m a < 8192 := by
  have h := (a.extractLsb' 0 12).isLt
  have hb := Bool.toNat_le ((if a.getLsbD 12 then m.chr1 else m.chr0).getLsbD 0)
  unfold mmc1ChrRamIndex
  by_cases hc : controlChrm m.control = true
  · rw [if_pos hc]; omega
  · rw [if_neg hc]; exact ha

/-- A place lies inside its storage. -/
def PpuLoc.inside : PpuLoc → Prop
  | .chrRom _ _ => True
  | .chrRam o => o < Config.chrRamSize
  | .nametable o => o < Config.ntRamSize
  | .palette o => o < Config.paletteBytes

theorem chrLocate_inside (s : State) (a : Addr) (ha : a.toNat < 0x2000) :
    (chrLocate s a).inside := by
  unfold chrLocate
  split
  · split_ifs
    · trivial
    · exact ha
  · dsimp only
    split_ifs
    · exact mmc1ChrRamIndex_lt _ a ha
    · trivial

theorem ntLocate_inside (s : State) (a : Addr) : (ntLocate s a).inside := ntIndex_lt _ _

theorem palLocate_inside (a : Addr) : (palLocate a).inside := palIndex_lt a

theorem ppuLocate_inside (s : State) (a : Addr) : (ppuLocate s a).inside := by
  unfold ppuLocate
  dsimp only
  split_ifs with h1
  · exact chrLocate_inside s _ h1
  · exact ntLocate_inside s _
  · exact palLocate_inside _

/-- The place depends on the cartridge alone. -/
theorem ppuLocate_congr {s t : State} (hm : t.mapper = s.mapper) (hc : t.chr = s.chr) (a : Addr) :
    ppuLocate t a = ppuLocate s a := by
  simp only [ppuLocate, chrLocate, ntLocate, hm, hc]

theorem readLoc_congr {s t : State} (hp : t.params = s.params) (hc : t.chr = s.chr)
    (h1 : t.chrRam = s.chrRam) (h2 : t.ntRam = s.ntRam) (h3 : t.palRam = s.palRam) (l : PpuLoc) :
    readLoc t l = readLoc s l := by
  cases l <;> simp only [readLoc, hp, hc, h1, h2, h3]

/-- A PPU-space read depends on the cartridge and its storage alone. -/
theorem ppuRead_congr {s t : State} (hm : t.mapper = s.mapper) (hp : t.params = s.params)
    (hc : t.chr = s.chr) (h1 : t.chrRam = s.chrRam) (h2 : t.ntRam = s.ntRam)
    (h3 : t.palRam = s.palRam) (a : Addr) : ppuRead t a = ppuRead s a := by
  rw [ppuRead, ppuRead, ppuLocate_congr hm hc, readLoc_congr hp hc h1 h2 h3]

@[simp] theorem ppuRead_setPpu (s : State) (p : Ppu) (a : Addr) :
    ppuRead (s.setPpu p) a = ppuRead s a := rfl

/-- A write to a place changes only the three memories of PPU space. -/
theorem writeLoc_frame (s : State) (l : PpuLoc) (d : Byte) :
    writeLoc s l d = { s with
      chrRam := (writeLoc s l d).chrRam
      ntRam := (writeLoc s l d).ntRam
      palRam := (writeLoc s l d).palRam } := by
  cases l <;> simp only [writeLoc]
  · split_ifs <;> rfl
  · rfl
  · rfl

/-- A read after a write to a place of PPU space. -/
theorem readLoc_writeLoc {s : State} (h : memoriesWf s = true) (l k : PpuLoc) (d : Byte) :
    readLoc (writeLoc s l d) k
      = if k = l ∧ locWritable s k = true then d else readLoc s k := by
  simp only [memoriesWf, Bool.and_eq_true] at h
  obtain ⟨⟨⟨⟨⟨⟨_, hn⟩, hp⟩, hc⟩, _⟩, _⟩, _⟩ := h
  cases l <;> cases k <;> simp only [writeLoc, readLoc, locWritable] <;> (try split_ifs) <;>
    simp_all [cellRead_cellWrite_of_wf hc, cellRead_cellWrite_of_wf hn, cellRead_cellWrite_of_wf hp]

/-- A write to a place inside its storage keeps every memory in form. -/
theorem memoriesWf_writeLoc {s : State} (h : memoriesWf s = true) {l : PpuLoc} (hl : l.inside)
    (d : Byte) : memoriesWf (writeLoc s l d) = true := by
  cases l <;> simp only [writeLoc]
  · exact h
  · split_ifs
    · simp only [memoriesWf, Bool.and_eq_true] at h ⊢
      exact ⟨⟨⟨⟨h.1.1.1.1, wf_cellWrite h.1.1.1.2 hl d⟩, h.1.1.2⟩, h.1.2⟩, h.2⟩
    · exact h
  · simp only [memoriesWf, Bool.and_eq_true] at h ⊢
    exact ⟨⟨⟨⟨⟨⟨h.1.1.1.1.1.1, wf_cellWrite h.1.1.1.1.1.2 hl d⟩, h.1.1.1.1.2⟩, h.1.1.1.2⟩, h.1.1.2⟩,
      h.1.2⟩, h.2⟩
  · simp only [memoriesWf, Bool.and_eq_true] at h ⊢
    exact ⟨⟨⟨⟨⟨h.1.1.1.1.1, wf_cellWrite h.1.1.1.1.2 hl d⟩, h.1.1.1.2⟩, h.1.1.2⟩, h.1.2⟩, h.2⟩

/-! ### CPU space -/

/-- A mapper write changes only the mapper's registers. -/
theorem mapperWrite_frame (s : State) (a : Addr) (d : Byte) :
    mapperWrite s a d = { s with mapper := (mapperWrite s a d).mapper } := by
  unfold mapperWrite
  split <;> rfl

/-- A PRG RAM write changes only PRG RAM. -/
theorem sramWrite_frame (s : State) (a : Addr) (d : Byte) :
    sramWrite s a d = { s with prgRam := (sramWrite s a d).prgRam } := by
  unfold sramWrite
  split <;> rfl

theorem mapperWf_mapperWrite {s : State} (h : mapperWf s.mapper = true) (a : Addr) (d : Byte) :
    mapperWf (mapperWrite s a d).mapper = true := by
  unfold mapperWrite
  split
  · exact h
  · rename_i m hm
    simp only [hm, mapperWf, decide_eq_true_eq] at h
    simp only [State.setMapper_mapper, mapperWf, decide_eq_true_eq, serialWrite]
    split_ifs with h7 h5
    · simp [serialReset]
    · exact Nat.zero_le 4
    · simp only [shiftIn] at h5 ⊢
      omega

/-- What a serial write does: the reset, the fifth bit, or a bit before it (41_mapper_access.md R157
to R160). -/
theorem serialWrite_cases (m : Mmc1) (a : Addr) (d : Byte) :
    (d.getLsbD 7 = true ∧ serialWrite m a d = serialReset m)
    ∨ (d.getLsbD 7 = false ∧ m.cnt = 4
      ∧ serialWrite m a d = serialCommit (shiftIn m (d.getLsbD 0)) (a.extractLsb' 13 2))
    ∨ (d.getLsbD 7 = false ∧ m.cnt ≠ 4 ∧ serialWrite m a d = shiftIn m (d.getLsbD 0)) := by
  unfold serialWrite
  cases h7 : d.getLsbD 7
  · by_cases h4 : m.cnt = 4
    · exact .inr (.inl ⟨rfl, h4, by simp [shiftIn, h4]⟩)
    · exact .inr (.inr ⟨rfl, h4, by simp [shiftIn, h4]⟩)
  · exact .inl ⟨rfl, rfl⟩

end Sys2Proof.Machine
end

