-- ==== Sys2Proof/Laws/PerInstr.lean ====
section
/-! SUPPORT. Statements made for every instruction, one lemma per constructor. -/

/-- The word of a transaction (30_encoding.md R100, R110): `RSV` is 0 and the `DATA` bits of a row that
has no data operand are 0. -/
def Sys2Proof.Laws.WordForm.Statement (i : Sys2Proof.Instr) : Prop :=
  Sys2Proof.rsvField (Sys2Proof.encode i) = 0#5
    ∧ (Sys2Proof.Machine.dataIgnored i = true → Sys2Proof.dataField (Sys2Proof.encode i) = 0#8)

namespace Sys2Proof.Laws.WordForm

open Sys2Proof Sys2Proof.Machine

/-- A row with a data operand. -/
theorem of_operand {i : Instr} {p : BitVec 2} {rw : Bool} {a : Addr} {d : Byte}
    (he : encode i = packWord p rw a d) (hd : dataIgnored i = false) : Statement i :=
  ⟨by rw [he, rsvField_packWord], fun h => by rw [hd] at h; cases h⟩

/-- A row that ignores its DATA bits. -/
theorem of_ignored {i : Instr} {p : BitVec 2} {rw : Bool} {a : Addr}
    (he : encode i = packWord p rw a 0#8) : Statement i :=
  ⟨by rw [he, rsvField_packWord], fun _ => by rw [he, dataField_packWord]⟩

theorem ppuWrCtrl1 (d : Byte) : Statement (.ppuWrCtrl1 d) := of_operand rfl rfl
theorem ppuWrCtrl2 (d : Byte) : Statement (.ppuWrCtrl2 d) := of_operand rfl rfl
theorem ppuWrStatus (d : Byte) : Statement (.ppuWrStatus d) := of_operand rfl rfl
theorem ppuWrOamAddr (d : Byte) : Statement (.ppuWrOamAddr d) := of_operand rfl rfl
theorem ppuWrOamData (d : Byte) : Statement (.ppuWrOamData d) := of_operand rfl rfl
theorem ppuWrScroll (d : Byte) : Statement (.ppuWrScroll d) := of_operand rfl rfl
theorem ppuWrAddr (d : Byte) : Statement (.ppuWrAddr d) := of_operand rfl rfl
theorem ppuWrData (d : Byte) : Statement (.ppuWrData d) := of_operand rfl rfl
theorem ppuRdCtrl1 : Statement .ppuRdCtrl1 := of_ignored rfl
theorem ppuRdCtrl2 : Statement .ppuRdCtrl2 := of_ignored rfl
theorem ppuRdStatus : Statement .ppuRdStatus := of_ignored rfl
theorem ppuRdOamAddr : Statement .ppuRdOamAddr := of_ignored rfl
theorem ppuRdOamData : Statement .ppuRdOamData := of_ignored rfl
theorem ppuRdScroll : Statement .ppuRdScroll := of_ignored rfl
theorem ppuRdAddr : Statement .ppuRdAddr := of_ignored rfl
theorem ppuRdData : Statement .ppuRdData := of_ignored rfl
theorem ppuBadIndex (rw : Bool) (idx : Addr) (d : Byte) : Statement (.ppuBadIndex rw idx d) := of_operand rfl rfl
theorem cpuRdUnmappedLo (a : Addr) : Statement (.cpuRdUnmappedLo a) := of_ignored rfl
theorem cpuRdUnmappedHi (a : Addr) : Statement (.cpuRdUnmappedHi a) := of_ignored rfl
theorem cpuRdSram (a : Addr) : Statement (.cpuRdSram a) := of_ignored rfl
theorem cpuRdPrgLo (a : Addr) : Statement (.cpuRdPrgLo a) := of_ignored rfl
theorem cpuRdPrgHi (a : Addr) : Statement (.cpuRdPrgHi a) := of_ignored rfl
theorem cpuWrUnmappedLo (a : Addr) (d : Byte) : Statement (.cpuWrUnmappedLo a d) := of_operand rfl rfl
theorem cpuWrUnmappedHi (a : Addr) (d : Byte) : Statement (.cpuWrUnmappedHi a d) := of_operand rfl rfl
theorem cpuWrSram (a : Addr) (d : Byte) : Statement (.cpuWrSram a d) := of_operand rfl rfl
theorem cpuWrMapCtrl (a : Addr) (d : Byte) : Statement (.cpuWrMapCtrl a d) := of_operand rfl rfl
theorem cpuWrMapChr0 (a : Addr) (d : Byte) : Statement (.cpuWrMapChr0 a d) := of_operand rfl rfl
theorem cpuWrMapChr1 (a : Addr) (d : Byte) : Statement (.cpuWrMapChr1 a d) := of_operand rfl rfl
theorem cpuWrMapPrg (a : Addr) (d : Byte) : Statement (.cpuWrMapPrg a d) := of_operand rfl rfl
theorem pbRdPal (a : Addr) : Statement (.pbRdPal a) := of_ignored rfl
theorem pbRdNt (a : Addr) : Statement (.pbRdNt a) := of_ignored rfl
theorem pbRdPat (a : Addr) : Statement (.pbRdPat a) := of_ignored rfl
theorem pbWrPal (a : Addr) (d : Byte) : Statement (.pbWrPal a d) := of_operand rfl rfl
theorem pbWrNt (a : Addr) (d : Byte) : Statement (.pbWrNt a d) := of_operand rfl rfl
theorem pbWrPat (a : Addr) (d : Byte) : Statement (.pbWrPat a d) := of_operand rfl rfl
theorem tick : Statement .tick := of_ignored rfl
theorem nmiAck : Statement .nmiAck := of_ignored rfl

end Sys2Proof.Laws.WordForm
end

