-- ==== Sys2Proof/Laws/Timing.lean ====
section
/-! SUPPORT. The tick table: its rows never fire together, and a tick changes only the PPU. -/

namespace Sys2Proof.Machine

section
variable (sl off : Nat) (s : State)

theorem rowRender_skip (h : off ≠ 255) : rowRender sl off s = s := by simp [rowRender, h]

theorem rowIncY_skip (h : off ≠ 256) : rowIncY sl off s = s := by simp [rowIncY, h]

theorem rowHorizontal_skip (h : off ≠ 257) : rowHorizontal sl off s = s := by
  simp [rowHorizontal, h]

theorem rowVertical_skip (h : ¬ (280 ≤ off ∧ off ≤ 304)) : rowVertical sl off s = s := by
  unfold rowVertical
  rw [if_neg]
  tauto

theorem rowVblankStart_skip (h : off ≠ 0) : rowVblankStart sl off s = s := by
  simp [rowVblankStart, h]

theorem rowVblankEnd_skip (h : off ≠ 0) : rowVblankEnd sl off s = s := by
  simp [rowVblankEnd, h]

/-- The offset alone decides which one row of the table can act (42_timing.md R182). -/
theorem tickActions_cases :
    (off = 255 ∧ tickActions sl off s = rowRender sl off s)
    ∨ (off = 256 ∧ tickActions sl off s = rowIncY sl off s)
    ∨ (off = 257 ∧ tickActions sl off s = rowHorizontal sl off s)
    ∨ (280 ≤ off ∧ off ≤ 304 ∧ tickActions sl off s = rowVertical sl off s)
    ∨ (off = 0 ∧ tickActions sl off s = rowVblankEnd sl off (rowVblankStart sl off s))
    ∨ (off ≠ 255 ∧ off ≠ 256 ∧ off ≠ 257 ∧ ¬ (280 ≤ off ∧ off ≤ 304) ∧ off ≠ 0
        ∧ tickActions sl off s = s) := by
  unfold tickActions
  by_cases h0 : off = 0
  · refine .inr (.inr (.inr (.inr (.inl ⟨h0, ?_⟩))))
    rw [rowRender_skip _ _ _ (by omega), rowIncY_skip _ _ _ (by omega),
      rowHorizontal_skip _ _ _ (by omega), rowVertical_skip _ _ _ (by omega)]
  · rw [rowVblankEnd_skip _ _ _ h0, rowVblankStart_skip _ _ _ h0]
    by_cases h1 : off = 255
    · refine .inl ⟨h1, ?_⟩
      rw [rowVertical_skip _ _ _ (by omega), rowHorizontal_skip _ _ _ (by omega),
        rowIncY_skip _ _ _ (by omega)]
    · rw [rowRender_skip _ _ _ h1]
      by_cases h2 : off = 256
      · refine .inr (.inl ⟨h2, ?_⟩)
        rw [rowVertical_skip _ _ _ (by omega), rowHorizontal_skip _ _ _ (by omega)]
      · rw [rowIncY_skip _ _ _ h2]
        by_cases h3 : off = 257
        · refine .inr (.inr (.inl ⟨h3, ?_⟩))
          rw [rowVertical_skip _ _ _ (by omega)]
        · rw [rowHorizontal_skip _ _ _ h3]
          by_cases h4 : 280 ≤ off ∧ off ≤ 304
          · exact .inr (.inr (.inr (.inl ⟨h4.1, h4.2, rfl⟩)))
          · rw [rowVertical_skip _ _ _ h4]
            exact .inr (.inr (.inr (.inr (.inr ⟨h1, h2, h3, h4, h0, rfl⟩))))

end

/-- Render changes only the PPU's `v`, two status flags and event trace. -/
theorem render_frame (sl : Nat) (s : State) :
    render sl s = s.setPpu { s.ppu with
      v := (render sl s).ppu.v
      overflow := (render sl s).ppu.overflow
      s0hit := (render sl s).ppu.s0hit
      events := (render sl s).ppu.events } := rfl

/-- Every row of the tick table keeps everything but the PPU, and of the PPU everything but `v`, the
status flags, the NMI output and the event trace. -/
theorem tickActions_frame (sl off : Nat) (s : State) :
    tickActions sl off s = s.setPpu { s.ppu with
      v := (tickActions sl off s).ppu.v
      vblank := (tickActions sl off s).ppu.vblank
      s0hit := (tickActions sl off s).ppu.s0hit
      overflow := (tickActions sl off s).ppu.overflow
      nmi := (tickActions sl off s).ppu.nmi
      events := (tickActions sl off s).ppu.events } := by
  obtain ⟨_, h⟩ | ⟨_, h⟩ | ⟨_, h⟩ | ⟨_, _, h⟩ | ⟨_, h⟩ | ⟨_, _, _, _, _, h⟩ :=
    tickActions_cases sl off s <;> rw [h]
  · unfold rowRender; split_ifs <;> rfl
  · unfold rowIncY; split_ifs <;> rfl
  · unfold rowHorizontal; split_ifs <;> rfl
  · unfold rowVertical; split_ifs <;> rfl
  · unfold rowVblankEnd rowVblankStart; split_ifs <;> rfl
  · rfl

/-- A tick changes only the PPU. -/
theorem tickEffect_frame (s : State) : tickEffect s = s.setPpu (tickEffect s).ppu := by
  have h := tickActions_frame (tickScanline s.ppu.cyc) (tickOffset s.ppu.cyc) s
  unfold tickEffect
  dsimp only
  rw [h]
  rfl

/-- A tick moves the counter by one (42_timing.md R181). -/
theorem tickEffect_cyc (s : State) : (tickEffect s).ppu.cyc = s.ppu.cyc + 1 := by
  have h := congrArg (fun t : State => t.ppu.cyc)
    (tickActions_frame (tickScanline s.ppu.cyc) (tickOffset s.ppu.cyc) s)
  simp only [State.setPpu_ppu] at h
  simp only [tickEffect, State.setPpu_ppu, h]

end Sys2Proof.Machine
end

