-- ==== Sys2Proof/Laws/Render.lean ====
section
/-! SUPPORT. The renderer's loops in closed form: the tile loop, the emitted row, and what the sprite
loops keep. -/

namespace Sys2Proof.Machine

/-! ### The tile loop -/

/-- The columns a tile draws (43_renderer.md R211). -/
theorem bgColumns_eq (px fx : Nat) (hfx : fx < 8) :
    bgColumns px fx = (List.range (min (8 - fx) (256 - px))).map (fun k => fx + k) := by
  have hdrop : ([0, 1, 2, 3, 4, 5, 6, 7] : List Nat).drop fx
      = (List.range (8 - fx)).map (fun k => fx + k) := by
    interval_cases fx <;> rfl
  unfold bgColumns
  rw [hdrop, ← List.map_take, List.take_range, Nat.min_comm]

/-- The tile loop of R211 with enough tiles: pixel `px + k` is column `(fx + k) mod 8` of the tile
`(fx + k) div 8` coarse-X steps on. -/
theorem bgTiles_eq (s : State) : ∀ (n px fx : Nat) (v : VramAddr), px ≤ 256 → fx < 8 →
    (px < 256 → 256 - px + fx ≤ 8 * n) →
    bgTiles s n px fx v =
      ((List.range (256 - px)).map (fun k =>
        bgPixel s (bgTile s (incCoarseX^[(fx + k) / 8] v)) ((fx + k) % 8)),
      if px < 256 then incCoarseX^[(256 - px + fx + 7) / 8] v else v)
  | 0, px, fx, v, hpx, hfx, hn => by
    have h : ¬ px < 256 := fun h => by have := hn h; omega
    have h0 : 256 - px = 0 := by omega
    simp [bgTiles, h, h0]
  | n + 1, px, fx, v, hpx, hfx, hn => by
    by_cases h : px < 256
    · have hn' := hn h
      have first : ∀ k, k < 8 - fx → (fx + k) / 8 = 0 ∧ (fx + k) % 8 = fx + k := fun k hk => by
        omega
      simp only [bgTiles, Config.renderWidth, if_pos h, bgColumns_eq px fx hfx, List.length_map,
        List.length_range, List.map_map]
      by_cases hlast : 256 - px ≤ 8 - fx
      · have hmin : min (8 - fx) (256 - px) = 256 - px := Nat.min_eq_right hlast
        have hend : px + (256 - px) = 256 := by omega
        rw [hmin, hend, bgTiles_eq s n 256 0 (incCoarseX v) (Nat.le_refl _) (by omega) (by omega)]
        have hone : (256 - px + fx + 7) / 8 = 1 := by omega
        simp only [Nat.sub_self, List.range_zero, List.map_nil, List.append_nil, hone,
          Nat.lt_irrefl, if_false, Function.iterate_one]
        refine Prod.ext ?_ rfl
        refine List.map_congr_left (fun k hk => ?_)
        have hk' := first k (by have := List.mem_range.1 hk; omega)
        simp [hk'.1, hk'.2]
      · have hmin : min (8 - fx) (256 - px) = 8 - fx := Nat.min_eq_left (by omega)
        rw [hmin, bgTiles_eq s n (px + (8 - fx)) 0 (incCoarseX v) (by omega) (by omega) (by omega)]
        have hlt : px + (8 - fx) < 256 := by omega
        have hsplit : 256 - px = (8 - fx) + (256 - (px + (8 - fx))) := by omega
        have hcount : (256 - px + fx + 7) / 8 = (256 - (px + (8 - fx)) + 0 + 7) / 8 + 1 := by omega
        refine Prod.ext ?_ ?_
        · dsimp only
          rw [hsplit, List.range_add, List.map_append, List.map_map]
          congr 1
          · refine List.map_congr_left (fun k hk => ?_)
            have hk' := first k (List.mem_range.1 hk)
            simp [hk'.1, hk'.2]
          · refine List.map_congr_left (fun k _ => ?_)
            have hd : (fx + (8 - fx + k)) / 8 = (0 + k) / 8 + 1 := by omega
            have hm : (fx + (8 - fx + k)) % 8 = (0 + k) % 8 := by omega
            simp only [Function.comp, hd, hm, Function.iterate_succ_apply]
        · dsimp only
          rw [if_pos hlt, hcount, Function.iterate_succ_apply]
    · have h0 : 256 - px = 0 := by omega
      simp [bgTiles, h, h0]

/-- The row and `v` after an enabled background pass (43_renderer.md R211). -/
theorem renderBackground_eq (s : State) (hb : ctrl2Bge s.ppu.ctrl2 = true) :
    renderBackground s = ((List.range 256).map (bgPixelAt s),
      incCoarseX^[(s.ppu.x.toNat + 263) / 8] s.ppu.v) := by
  have hx := s.ppu.x.isLt
  have hl : (initRow s).length = 256 := by rw [initRow, List.length_replicate]
  have hc : (256 - 0 + s.ppu.x.toNat + 7) / 8 = (s.ppu.x.toNat + 263) / 8 := by omega
  rw [renderBackground, if_pos hb, backgroundPass,
    bgTiles_eq s 33 0 s.ppu.x.toNat s.ppu.v (by omega) (by omega) (by omega)]
  refine Prod.ext ?_ ?_
  · dsimp only
    rw [List.drop_eq_nil_of_le (by rw [hl, List.length_map, List.length_range]), List.append_nil]
    rfl
  · dsimp only
    rw [if_pos (by decide), hc]

/-- A tick at a render position renders (42_timing.md R184). -/
theorem tickActions_render {s : State} (h : rendersNow s) :
    tickActions (tickScanline s.ppu.cyc) (tickOffset s.ppu.cyc) s
      = render (tickScanline s.ppu.cyc) s := by
  have h1 := h.1
  obtain ⟨_, e⟩ | ⟨e0, _⟩ | ⟨e0, _⟩ | ⟨e0, _, _⟩ | ⟨e0, _⟩ | ⟨e0, _⟩ :=
    tickActions_cases (tickScanline s.ppu.cyc) (tickOffset s.ppu.cyc) s
  · rw [e]
    exact if_pos h
  all_goals omega

/-! ### The emitted row -/

/-- The SetPixel events of a row (43_renderer.md R230). -/
theorem rowEvents_eq (sl : Nat) : ∀ (x : Nat) (row : List Pixel),
    rowEvents sl x row
      = (List.range row.length).map (fun k =>
          .setPixel (x + k) sl ((row[k]?).elim 0x00#8 Pixel.color))
  | _, [] => rfl
  | x, p :: rest => by
    rw [rowEvents, rowEvents_eq sl (x + 1) rest, List.length_cons, List.range_succ_eq_map,
      List.map_cons, List.map_map]
    refine congrArg₂ List.cons rfl (List.map_congr_left (fun k _ => ?_))
    simp [Nat.add_assoc, Nat.add_comm 1 k]

/-! ### What the sprite loops keep -/

/-- One column of a sprite: the row keeps its length and its background marks (43_renderer.md R226 to
R229). -/
theorem drawSpritePixel_keeps (s : State) (sl i : Nat) (e : Sprite) (acc : SpriteScan) (k : Nat) :
    (drawSpritePixel s sl i e acc k).row.map Pixel.bgOpaque = acc.row.map Pixel.bgOpaque
    ∧ (drawSpritePixel s sl i e acc k).drawn = acc.drawn
    ∧ (drawSpritePixel s sl i e acc k).overflow = acc.overflow := by
  unfold drawSpritePixel
  dsimp only
  split
  · exact ⟨rfl, rfl, rfl⟩
  · rename_i under hu
    split_ifs
    · exact ⟨rfl, rfl, rfl⟩
    · exact ⟨rfl, rfl, rfl⟩
    · refine ⟨?_, rfl, rfl⟩
      dsimp only
      rw [List.map_set]
      apply List.ext_getElem?
      intro j
      rw [List.getElem?_set]
      split_ifs with h1 h2
      · subst h1
        simp [hu]
      · subst h1
        simp only [List.length_map, not_lt] at h2
        simp [h2]
      · rfl

/-- Every column of a list. -/
theorem foldl_drawSpritePixel_keeps (s : State) (sl i : Nat) (e : Sprite) :
    ∀ (ks : List Nat) (acc : SpriteScan),
      (ks.foldl (drawSpritePixel s sl i e) acc).row.map Pixel.bgOpaque = acc.row.map Pixel.bgOpaque
      ∧ (ks.foldl (drawSpritePixel s sl i e) acc).drawn = acc.drawn
      ∧ (ks.foldl (drawSpritePixel s sl i e) acc).overflow = acc.overflow
  | [], _ => ⟨rfl, rfl, rfl⟩
  | k :: ks, acc => by
    have h1 := drawSpritePixel_keeps s sl i e acc k
    have h2 := foldl_drawSpritePixel_keeps s sl i e ks (drawSpritePixel s sl i e acc k)
    exact ⟨h2.1.trans h1.1, h2.2.1.trans h1.2.1, h2.2.2.trans h1.2.2⟩

/-- A whole sprite. -/
theorem drawSprite_keeps (s : State) (sl i : Nat) (e : Sprite) (acc : SpriteScan) :
    (drawSprite s sl i e acc).row.map Pixel.bgOpaque = acc.row.map Pixel.bgOpaque
    ∧ (drawSprite s sl i e acc).drawn = acc.drawn
    ∧ (drawSprite s sl i e acc).overflow = acc.overflow :=
  foldl_drawSpritePixel_keeps s sl i e _ acc

/-- The loop over the entries keeps the background marks, so the row's length. -/
theorem spriteScan_keeps (s : State) (sl : Nat) : ∀ (n : Nat) (acc : SpriteScan),
    (spriteScan s sl n acc).row.map Pixel.bgOpaque = acc.row.map Pixel.bgOpaque
  | 0, _ => rfl
  | n + 1, acc => by
    unfold spriteScan
    dsimp only
    split_ifs
    · rfl
    · rw [spriteScan_keeps s sl n]
      exact (drawSprite_keeps s sl n _ _).1
    · exact spriteScan_keeps s sl n acc

/-! ### What a sprite draws -/

/-- What a sprite does to the pixel of column `px` when the columns `ks` of it are drawn (43_renderer.md
R226 to R228). -/
def spritePixel (s : State) (sl : Nat) (e : Sprite) (ks : List Nat) (px : Nat) (u : Pixel) : Pixel :=
  if e.x.toNat ≤ px ∧ px - e.x.toNat ∈ ks ∧ spriteColorIndex s sl e (px - e.x.toNat) ≠ 0#2
      ∧ ¬ (attrBehind e.attr = true ∧ u.bgOpaque = true) then
    { u with color := ppuRead s (spriteColorAddr (attrSpal e.attr)
        (spriteColorIndex s sl e (px - e.x.toNat))) }
  else u

/-- One column of a sprite, pixel by pixel. -/
theorem drawSpritePixel_row (s : State) (sl i : Nat) (e : Sprite) (acc : SpriteScan) (k px : Nat) :
    (drawSpritePixel s sl i e acc k).row[px]? = (acc.row[px]?).map (spritePixel s sl e [k] px) := by
  have hmem : ∀ u, e.x.toNat + k ≠ px → spritePixel s sl e [k] px u = u := by
    intro u h
    unfold spritePixel
    rw [if_neg]
    rintro ⟨h1, h2, _⟩
    rw [List.mem_singleton] at h2
    omega
  unfold drawSpritePixel
  dsimp only
  split
  · rename_i hn
    cases hr : acc.row[px]? with
    | none => rfl
    | some u =>
      rw [Option.map_some, hmem u (by rintro rfl; rw [hr] at hn; cases hn)]
  · rename_i under hu
    have hat : ∀ u, spritePixel s sl e [k] (e.x.toNat + k) u = if spriteColorIndex s sl e k ≠ 0#2
        ∧ ¬ (attrBehind e.attr = true ∧ u.bgOpaque = true) then
        { u with color := ppuRead s (spriteColorAddr (attrSpal e.attr) (spriteColorIndex s sl e k)) }
        else u := by
      intro u
      have hk : e.x.toNat + k - e.x.toNat = k := by omega
      unfold spritePixel
      rw [hk]
      simp
    by_cases hpx : e.x.toNat + k = px
    · subst hpx
      rw [hu, Option.map_some, hat]
      have hlen : e.x.toNat + k < acc.row.length := by
        by_contra h; rw [List.getElem?_eq_none (by omega)] at hu; cases hu
      by_cases hc : spriteColorIndex s sl e k = 0#2
      · simp [hc, hu]
      · by_cases hb : attrBehind e.attr = true ∧ under.bgOpaque = true
        · simp [hc, hu, hb.1, hb.2]
        · have hb' : (attrBehind e.attr && under.bgOpaque) = false := by simpa using hb
          have hp : spriteColorIndex s sl e k ≠ 0#2
              ∧ ¬ (attrBehind e.attr = true ∧ under.bgOpaque = true) := ⟨hc, hb⟩
          simp only [if_neg hc, if_pos hp, hb']
          simp [hlen]
    · have : ∀ row : List Pixel, ∀ p, (row.set (e.x.toNat + k) p)[px]? = row[px]? := by
        intro row p
        rw [List.getElem?_set_ne hpx]
      have hid : (acc.row[px]?).map (spritePixel s sl e [k] px) = acc.row[px]? := by
        cases acc.row[px]? with
        | none => rfl
        | some u => rw [Option.map_some, hmem u hpx]
      rw [hid]
      split_ifs
      · rfl
      · rfl
      · exact this _ _

/-- One column, then others. -/
theorem spritePixel_cons (s : State) (sl : Nat) (e : Sprite) (k : Nat) (ks : List Nat) (px : Nat)
    (u : Pixel) :
    spritePixel s sl e ks px (spritePixel s sl e [k] px u) = spritePixel s sl e (k :: ks) px u := by
  have hb : (spritePixel s sl e [k] px u).bgOpaque = u.bgOpaque := by
    unfold spritePixel; split_ifs <;> rfl
  have hu : ∀ ks, spritePixel s sl e ks px (spritePixel s sl e [k] px u) =
      if e.x.toNat ≤ px ∧ px - e.x.toNat ∈ ks ∧ spriteColorIndex s sl e (px - e.x.toNat) ≠ 0#2
          ∧ ¬ (attrBehind e.attr = true ∧ u.bgOpaque = true) then
        { u with color := ppuRead s (spriteColorAddr (attrSpal e.attr)
            (spriteColorIndex s sl e (px - e.x.toNat))) }
      else spritePixel s sl e [k] px u := by
    intro ks
    rw [spritePixel, hb]
  rw [hu]
  by_cases h1 : e.x.toNat ≤ px ∧ spriteColorIndex s sl e (px - e.x.toNat) ≠ 0#2
      ∧ ¬ (attrBehind e.attr = true ∧ u.bgOpaque = true)
  · by_cases h2 : px - e.x.toNat ∈ ks
    · rw [if_pos ⟨h1.1, h2, h1.2⟩, spritePixel, if_pos ⟨h1.1, List.mem_cons_of_mem _ h2, h1.2⟩]
    · rw [if_neg (fun h => h2 h.2.1), spritePixel, spritePixel]
      simp only [List.mem_cons, List.not_mem_nil, h2, or_false]
  · rw [if_neg (fun h => h1 ⟨h.1, h.2.2⟩), spritePixel, if_neg (fun h => h1 ⟨h.1, h.2.2⟩), spritePixel,
      if_neg (fun h => h1 ⟨h.1, h.2.2⟩)]

/-- Several columns of a sprite, pixel by pixel. -/
theorem foldl_drawSpritePixel_row (s : State) (sl i : Nat) (e : Sprite) (px : Nat) :
    ∀ (ks : List Nat) (acc : SpriteScan),
      (ks.foldl (drawSpritePixel s sl i e) acc).row[px]?
        = (acc.row[px]?).map (spritePixel s sl e ks px)
  | [], acc => by
    have : spritePixel s sl e [] px = id := by funext u; simp [spritePixel]
    rw [this, Option.map_id]; rfl
  | k :: ks, acc => by
    rw [List.foldl_cons, foldl_drawSpritePixel_row s sl i e px ks, drawSpritePixel_row,
      Option.map_map]
    congr 1
    funext u
    exact spritePixel_cons s sl e k ks px u

/-- The hit flag after one column (43_renderer.md R229). -/
theorem drawSpritePixel_s0hit (s : State) (sl i : Nat) (e : Sprite) (acc : SpriteScan) (k : Nat) :
    (drawSpritePixel s sl i e acc k).s0hit = (acc.s0hit || (decide (i = 0)
      && decide (e.x.toNat + k ≤ 254) && decide (spriteColorIndex s sl e k ≠ 0#2)
      && ((acc.row.map Pixel.bgOpaque)[e.x.toNat + k]?).getD false)) := by
  unfold drawSpritePixel
  dsimp only
  split
  · rename_i hn
    rw [List.getElem?_map, hn]; simp
  · rename_i u hu
    rw [List.getElem?_map, hu]
    by_cases hc : spriteColorIndex s sl e k = 0#2
    · simp [hc]
    · simp [hc]

/-- The hit flag after several columns. -/
theorem foldl_drawSpritePixel_s0hit (s : State) (sl i : Nat) (e : Sprite) :
    ∀ (ks : List Nat) (acc : SpriteScan),
      (ks.foldl (drawSpritePixel s sl i e) acc).s0hit = (acc.s0hit || (decide (i = 0)
        && ks.any (fun k => decide (e.x.toNat + k ≤ 254)
          && decide (spriteColorIndex s sl e k ≠ 0#2)
          && ((acc.row.map Pixel.bgOpaque)[e.x.toNat + k]?).getD false)))
  | [], acc => by simp
  | k :: ks, acc => by
    rw [List.foldl_cons, foldl_drawSpritePixel_s0hit s sl i e ks,
      (drawSpritePixel_keeps s sl i e acc k).1, drawSpritePixel_s0hit, List.any_cons]
    cases decide (i = 0) <;> simp [Bool.or_assoc]

end Sys2Proof.Machine
end

