-- ==== Sys2Proof/Laws/Step.lean ====
section
/-! SUPPORT. One step, and a run of several. -/

namespace Sys2Proof.Machine

theorem step_idle {s : State} (h : s.pending = []) : step s = .next s := by
  simp [step, fetchWord, h]

theorem step_refused {s : State} {w : TransactionWord} {rest : List TransactionWord}
    {e : DecodeReject} (h : s.pending = w :: rest) (hd : decodeWord w = .error e) :
    step s = .refused (.invalidWord w e) := by
  simp [step, fetchWord, h, hd]

/-- Everything a step that answers a next state can be. -/
theorem step_cases {s t : State} (h : step s = .next t) :
    (s.pending = [] ∧ t = s)
    ∨ ∃ w rest i, s.pending = w :: rest ∧ decodeWord w = .ok i
        ∧ exec i (s.setPending rest) = .next t := by
  unfold step fetchWord at h
  cases hp : s.pending with
  | nil =>
    simp only [hp] at h
    cases h
    exact .inl ⟨rfl, rfl⟩
  | cons w rest =>
    cases hd : decodeWord w with
    | error e =>
      simp only [hp, hd] at h
      cases h
    | ok i =>
      simp only [hp, hd] at h
      exact .inr ⟨w, rest, i, rfl, hd, h⟩

theorem core_run_succ (M : Host.Core) (n : Nat) (s : M.State) :
    Host.Core.run M (n + 1) s =
      match M.step s with
      | .next s' => Host.Core.run M n s'
      | .fault r => .fault r
      | .refused r => .refused r := rfl

theorem blockRun_zero (s : State) : blockRun 0 s = .next s := rfl

/-- A run goes on from the state its first step answers. -/
theorem blockRun_of_step {n : Nat} {s s' : State} (h : step s = .next s') :
    blockRun (n + 1) s = blockRun n s' := by
  have h1 := core_run_succ Sys2Proof.core n s
  have h2 : Sys2Proof.core.step s = .next s' := h
  rw [h2] at h1
  exact h1

/-- A run that ends in a state passed through a first step that answered one. -/
theorem blockRun_succ_iff {n : Nat} {s t : State} :
    blockRun (n + 1) s = .next t ↔ ∃ s', step s = .next s' ∧ blockRun n s' = .next t := by
  constructor
  · intro h
    have h1 := core_run_succ Sys2Proof.core n s
    rcases hs : step s with s' | f | f
    · exact ⟨s', rfl, by rw [← blockRun_of_step hs]; exact h⟩
    · have h2 : Sys2Proof.core.step s = .fault f := hs
      rw [h2] at h1
      exact absurd (h1.symm.trans h) (by simp)
    · have h2 : Sys2Proof.core.step s = .refused f := hs
      rw [h2] at h1
      exact absurd (h1.symm.trans h) (by simp)
  · rintro ⟨s', h, h2⟩
    rw [blockRun_of_step h]
    exact h2

end Sys2Proof.Machine
end

