-- ==== Sys2Proof/Tests/Slice0.lean ====
section
/-! SUPPORT. The model's own tests: ill-formed terms refused, words decoded, one step each with results
taken from 95_test_vectors.md, and a witness for every obligation that has hypotheses. -/

namespace Sys2Proof.Tests

open Sys2Proof Sys2Proof.Machine

/-! ### WellFormed: one ill-formed term for each check -/

theorem test_ill_formed_refused :
    ([.ppuBadIndex true 7 0,
      .cpuRdUnmappedLo 0x4000,
      .cpuRdUnmappedHi 0x3FFF, .cpuRdUnmappedHi 0x6000,
      .cpuRdSram 0x5FFF, .cpuRdSram 0x8000,
      .cpuRdPrgLo 0x7FFF, .cpuRdPrgLo 0xC000,
      .cpuRdPrgHi 0xBFFF,
      .cpuWrUnmappedLo 0x4000 0,
      .cpuWrUnmappedHi 0x3FFF 0, .cpuWrUnmappedHi 0x6000 0,
      .cpuWrSram 0x5FFF 0, .cpuWrSram 0x8000 0,
      .cpuWrMapCtrl 0x7FFF 0, .cpuWrMapCtrl 0xA000 0,
      .cpuWrMapChr0 0x9FFF 0, .cpuWrMapChr0 0xC000 0,
      .cpuWrMapChr1 0xBFFF 0, .cpuWrMapChr1 0xE000 0,
      .cpuWrMapPrg 0xDFFF 0,
      .pbRdPal 0x3EFF, .pbWrPal 0x7EFF 0,
      .pbRdNt 0x1FFF, .pbRdNt 0x3F00, .pbWrNt 0x5FFF 0, .pbWrNt 0x7F00 0,
      .pbRdPat 0x2000, .pbWrPat 0x6000 0] : List Instr).all (fun i => !i.wf) = true := by
  decide

/-! ### Decode: a word written out from 30_encoding.md section 2 for every row

PORT in bits 31:30, RW in bit 29, RSV in bits 28:24, ADDR in bits 23:8, DATA in bits 7:0. -/

theorem test_decode_register_writes :
    decodeWord 0b00100000000000000000000000000001#32 = .ok (.ppuWrCtrl1 0x01)
    ∧ decodeWord 0b00100000000000000000000100011000#32 = .ok (.ppuWrCtrl2 0x18)
    ∧ decodeWord 0b00100000000000000000001011111111#32 = .ok (.ppuWrStatus 0xFF)
    ∧ decodeWord 0b00100000000000000000001101000000#32 = .ok (.ppuWrOamAddr 0x40)
    ∧ decodeWord 0b00100000000000000000010000010010#32 = .ok (.ppuWrOamData 0x12)
    ∧ decodeWord 0b00100000000000000000010101111101#32 = .ok (.ppuWrScroll 0x7D)
    ∧ decodeWord 0b00100000000000000000011000100001#32 = .ok (.ppuWrAddr 0x21)
    ∧ decodeWord 0b00100000000000000000011100010001#32 = .ok (.ppuWrData 0x11) := by
  decide

theorem test_decode_register_reads :
    decodeWord 0b00000000000000000000000000000000#32 = .ok .ppuRdCtrl1
    ∧ decodeWord 0b00000000000000000000000110101010#32 = .ok .ppuRdCtrl2
    ∧ decodeWord 0b00000000000000000000001000000000#32 = .ok .ppuRdStatus
    ∧ decodeWord 0b00000000000000000000001100000000#32 = .ok .ppuRdOamAddr
    ∧ decodeWord 0b00000000000000000000010000000000#32 = .ok .ppuRdOamData
    ∧ decodeWord 0b00000000000000000000010100000000#32 = .ok .ppuRdScroll
    ∧ decodeWord 0b00000000000000000000011000000000#32 = .ok .ppuRdAddr
    ∧ decodeWord 0b00000000000000000000011111111111#32 = .ok .ppuRdData := by
  decide

theorem test_decode_bad_index :
    decodeWord 0b00100000000000000000100000000000#32 = .ok (.ppuBadIndex true 8 0)
    ∧ decodeWord 0b00000000111111111111111101011010#32 = .ok (.ppuBadIndex false 0xFFFF 0x5A) := by
  decide

theorem test_decode_cpu_reads :
    decodeWord 0b01000000001111111111111100000000#32 = .ok (.cpuRdUnmappedLo 0x3FFF)
    ∧ decodeWord 0b01000000010111111111111100000000#32 = .ok (.cpuRdUnmappedHi 0x5FFF)
    ∧ decodeWord 0b01000000011000000000000000000000#32 = .ok (.cpuRdSram 0x6000)
    ∧ decodeWord 0b01000000100000000000000000000000#32 = .ok (.cpuRdPrgLo 0x8000)
    ∧ decodeWord 0b01000000110000000000000000000000#32 = .ok (.cpuRdPrgHi 0xC000) := by
  decide

theorem test_decode_cpu_writes :
    decodeWord 0b01100000000000000000000001010101#32 = .ok (.cpuWrUnmappedLo 0x0000 0x55)
    ∧ decodeWord 0b01100000010000000000000001010101#32 = .ok (.cpuWrUnmappedHi 0x4000 0x55)
    ∧ decodeWord 0b01100000011111111111111101010101#32 = .ok (.cpuWrSram 0x7FFF 0x55)
    ∧ decodeWord 0b01100000100111111111111110000001#32 = .ok (.cpuWrMapCtrl 0x9FFF 0x81)
    ∧ decodeWord 0b01100000101000000000000000000001#32 = .ok (.cpuWrMapChr0 0xA000 0x01)
    ∧ decodeWord 0b01100000110111111111111100000001#32 = .ok (.cpuWrMapChr1 0xDFFF 0x01)
    ∧ decodeWord 0b01100000111000000000000000000001#32 = .ok (.cpuWrMapPrg 0xE000 0x01) := by
  decide

theorem test_decode_bus :
    decodeWord 0b10000000001111110000000000000000#32 = .ok (.pbRdPal 0x3F00)
    ∧ decodeWord 0b10000000001111101111111100000000#32 = .ok (.pbRdNt 0x3EFF)
    ∧ decodeWord 0b10000000000100100000000000000000#32 = .ok (.pbRdPat 0x1200)
    ∧ decodeWord 0b10100000001111110001000000001111#32 = .ok (.pbWrPal 0x3F10 0x0F)
    ∧ decodeWord 0b10100000001000000000000001100110#32 = .ok (.pbWrNt 0x2000 0x66)
    ∧ decodeWord 0b10100000110111111111111100000101#32 = .ok (.pbWrPat 0xDFFF 0x05) := by
  decide

theorem test_decode_control :
    decodeWord 0b11100000000000000000000000000000#32 = .ok .tick
    ∧ decodeWord 0b11100000000000000000000100000000#32 = .ok .nmiAck := by
  decide

/-- V-E2, V-E3, V-E4. -/
theorem test_decode_invalid :
    decodeWord 0x01000200#32 = .error .reservedBits
    ∧ decodeWord 0xC0000000#32 = .error .controlRead
    ∧ decodeWord 0xE0000200#32 = .error (.controlAddress 2) := by
  decide

theorem test_decodeTableWord :
    decodeTableWord 32 0x20000621 = some (.ppuWrAddr 0x21)
    ∧ decodeTableWord 32 0xC0000000 = none := by
  decide

/-! ### States the tests start from -/

/-- The state a transaction leads to. -/
def after (i : Instr) (s : State) : State :=
  match exec i s with
  | .next t => t
  | .fault _ => s
  | .refused _ => s

/-- Reset with a PPU. -/
def withPpu (p : Ppu) : State := State.reset.setPpu p

/-- A block with the MMC1, `n` PRG banks that hold their own number at offset 0 and the CHR buffers of
95_test_vectors.md section 2.6, or none. -/
def mmc1Block (m : Mmc1) (n : Nat) (chr : List Rom) (oor : OorPolicy) : State :=
  { State.reset with
    prg := (List.range n).map (fun k =>
      { size := 16384, bytes := if k = 0 then [] else [(0, BitVec.ofNat 8 k)] })
    chr := chr
    mapper := .mmc1 m
    params := { guard := .literal, oor := oor } }

/-- MMC1 registers with an empty serial port. -/
def regs (control chr0 chr1 prg : Reg5) : Mmc1 :=
  { control := control, chr0 := chr0, chr1 := chr1, prg := prg, sr := 0, cnt := 0 }

/-- The two CHR buffers of 95_test_vectors.md section 2.6. -/
def twoChr : List Rom :=
  [{ size := 8192, bytes := [(0, 0x40#8), (0x1000, 0x41#8)] },
   { size := 8192, bytes := [(0, 0x42#8), (0x1000, 0x43#8)] }]

/-- NoMapper with PRG buffers whose byte 0 is given. -/
def noMapperBlock (firstBytes : List Byte) (units : Nat) : State :=
  { State.reset with
    prg := firstBytes.map (fun b => { size := 16384, bytes := [(0, b)] })
    prgRamUnits := units }

/-- A halted block. -/
def halted : State := State.reset.setFault (some (.writeOnlyRegisterRead 0#3))

/-- Scanline 1 about to render, as V-R9: an opaque background row, the other sprites out of range, and
sprite 0 with tile 1 at column `x`. -/
def rowBlock (x : Byte) : State :=
  { State.reset with
    oam := [(1, 0x01#8), (3, x)] ++ (List.range 63).map (fun k => (4 * k + 4, 0xFF#8))
    ntRam := (List.range 32).map (fun i => (i, 0x01#8))
    palRam := [(0, 0x0F#8), (1, 0x30#8), (0x11, 0x16#8)]
    chrRam := (List.range 8).map (fun k => (0x10 + k, 0xFF#8))
    ppu := { Ppu.reset with ctrl2 := 0x18#8, cyc := 341 + 255 } }

/-- `rowBlock` with sprites off. -/
def backgroundBlock : State :=
  (rowBlock 0).setPpu { (rowBlock 0).ppu with ctrl2 := 0x08#8 }

/-- `backgroundBlock` with fine X 7. -/
def fineXBlock : State :=
  backgroundBlock.setPpu { backgroundBlock.ppu with x := 7#3 }

/-- Scanline 1 about to render, as V-R3: sprites 0 to 8 in range. -/
def nineBlock : State :=
  { State.reset with
    oam := ((List.range 55).map (fun k => (4 * k + 36, 0xFF#8)))
    ppu := { Ppu.reset with ctrl2 := 0x18#8, cyc := 341 + 255 } }

/-- The vblank-start tick with the NMI enabled. -/
def enabledBlock : State := withPpu { Ppu.reset with ctrl1 := 0x80, cyc := 82181 }

/-- The vblank flag set, in the middle of a scanline. -/
def vblankBlock : State := withPpu { Ppu.reset with vblank := true }

/-- The vblank-end tick with every status flag set. -/
def endBlock : State :=
  withPpu { Ppu.reset with cyc := 89001, vblank := true, s0hit := true, overflow := true }

/-- The counter at scanline `sl`, offset `off` of frame 0. -/
def atTick (sl off : Nat) : State := withPpu { Ppu.reset with cyc := 341 * sl + off }

/-! ### Register writes (95_test_vectors.md section 2.1) -/

/-- V-W1. -/
theorem test_ctrl1_write :
    (after (.ppuWrCtrl1 0x01) (withPpu { Ppu.reset with t := 0x7FFF#15 })).ppu
      = { Ppu.reset with ctrl1 := 0x01, t := 0x77FF#15 } := by decide

/-- V-W2. -/
theorem test_ctrl2_write :
    (after (.ppuWrCtrl2 0x18) State.reset).ppu = { Ppu.reset with ctrl2 := 0x18 } := by decide

/-- V-W3. -/
theorem test_status_write :
    (after (.ppuWrStatus 0xFF) (withPpu { Ppu.reset with vblank := true })).ppu
      = { Ppu.reset with vblank := true } := by decide

/-- V-W4. -/
theorem test_oamaddr_write :
    (after (.ppuWrOamAddr 0x40) State.reset).ppu = { Ppu.reset with oamAddr := 0x40 } := by decide

/-- V-W5: the cursor wraps. -/
theorem test_oamdata_write :
    (after (.ppuWrOamData 0x12) (withPpu { Ppu.reset with oamAddr := 0xFF })).oam = [(255, 0x12#8)]
    ∧ (after (.ppuWrOamData 0x12) (withPpu { Ppu.reset with oamAddr := 0xFF })).ppu = Ppu.reset := by
  decide

/-- V-W6. -/
theorem test_scroll_first :
    (after (.ppuWrScroll 0x7D) State.reset).ppu
      = { Ppu.reset with t := 0x000F#15, x := 5, w := true } := by decide

/-- V-W7. -/
theorem test_scroll_second :
    (after (.ppuWrScroll 0x5E)
        (withPpu { Ppu.reset with t := 0x000F#15, x := 5, w := true })).ppu
      = { Ppu.reset with t := 0x616F#15, x := 5 } := by decide

/-- V-W11: bit 14 of `t` cleared. -/
theorem test_addr_first :
    (after (.ppuWrAddr 0x00) (withPpu { Ppu.reset with t := 0x7FFF#15 })).ppu
      = { Ppu.reset with t := 0x00FF#15, w := true } := by decide

/-- V-W9. -/
theorem test_addr_second :
    (after (.ppuWrAddr 0xF0) (withPpu { Ppu.reset with t := 0x3D6F#15, w := true })).ppu
      = { Ppu.reset with t := 0x3DF0#15, v := 0x3DF0#15 } := by decide

/-- V-W13: step 32, the palette mirror and the 15-bit wrap. -/
theorem test_data_write_step_32 :
    (after (.ppuWrData 0x01) (withPpu { Ppu.reset with v := 0x7FE0#15, ctrl1 := 0x04 })).palRam
        = [(0, 0x01#8)]
    ∧ (after (.ppuWrData 0x01) (withPpu { Ppu.reset with v := 0x7FE0#15, ctrl1 := 0x04 })).ppu.v
        = 0x0000#15 := by decide

/-- V-W14. -/
theorem test_data_write_top :
    (after (.ppuWrData 0x02) (withPpu { Ppu.reset with v := 0x7FFF#15 })).palRam = [(0x1F, 0x02#8)]
    ∧ (after (.ppuWrData 0x02) (withPpu { Ppu.reset with v := 0x7FFF#15 })).ppu.v = 0x0000#15 := by
  decide

/-! ### Register reads (section 2.2) -/

/-- V-D1. -/
theorem test_status_read :
    let s := withPpu { Ppu.reset with vblank := true, s0hit := true, overflow := true, w := true }
    (after .ppuRdStatus s).result = some 0xE0#8
    ∧ (after .ppuRdStatus s).ppu = { Ppu.reset with s0hit := true, overflow := true } := by decide

/-- V-D3. -/
theorem test_data_read :
    let s := { withPpu { Ppu.reset with v := 0x2108#15 } with ntRam := [(0x108, 0x11#8)] }
    (after .ppuRdData s).result = some 0x00#8
    ∧ (after .ppuRdData s).ppu = { Ppu.reset with rdbuf := 0x11, v := 0x2109#15 } := by decide

/-- V-D8: palette reads are buffered too. -/
theorem test_data_read_palette :
    let s := { withPpu { Ppu.reset with v := 0x3F00#15 } with palRam := [(0, 0x0F#8)] }
    (after .ppuRdData s).result = some 0x00#8 ∧ (after .ppuRdData s).ppu.rdbuf = 0x0F#8 := by decide

/-- V-D4, V-D5. -/
theorem test_write_only_reads :
    (after .ppuRdCtrl1 State.reset).fault = some (.writeOnlyRegisterRead 0)
    ∧ (after .ppuRdCtrl2 State.reset).fault = some (.writeOnlyRegisterRead 1)
    ∧ (after .ppuRdOamAddr State.reset).fault = some (.writeOnlyRegisterRead 3)
    ∧ (after .ppuRdOamData State.reset).fault = some (.writeOnlyRegisterRead 4)
    ∧ (after .ppuRdScroll State.reset).fault = some (.writeOnlyRegisterRead 5)
    ∧ (after .ppuRdAddr State.reset).fault = some (.writeOnlyRegisterRead 6)
    ∧ (after .ppuRdCtrl1 State.reset).result = none := by decide

/-- V-D6. -/
theorem test_bad_index :
    (after (.ppuBadIndex true 8 0) State.reset).fault = some (.registerIndexOutOfRange 8)
    ∧ faultCode (.registerIndexOutOfRange 8) = 3 := by decide

/-- V-D7: no effect and no value in the halted state. -/
theorem test_halted :
    after .tick halted = halted ∧ after .ppuRdStatus halted = halted
    ∧ after (.cpuWrMapCtrl 0x8000 0x80) halted = halted := by decide

/-! ### CPU space (section 2.5) -/

/-- V-N6, and R155. -/
theorem test_unmapped :
    (after (.cpuRdUnmappedHi 0x5FFF) State.reset).result = some 0x00#8
    ∧ (after (.cpuRdUnmappedLo 0x0000) State.reset).result = some 0x00#8
    ∧ after (.cpuWrUnmappedLo 0x0000 0x55) State.reset = State.reset
    ∧ after (.cpuWrUnmappedHi 0x4000 0x55) State.reset = State.reset := by decide

/-- V-N4. -/
theorem test_sram :
    (after (.cpuWrSram 0x6010 0x5A) State.reset).prgRam = [(0x10, 0x5A#8)]
    ∧ (after (.cpuRdSram 0x6010) (after (.cpuWrSram 0x6010 0x5A) State.reset)).result
        = some 0x5A#8 := by decide

/-- V-N5. -/
theorem test_sram_absent :
    (after (.cpuRdSram 0x6010) (after (.cpuWrSram 0x6010 0x5A) (noMapperBlock [] 0))).result
      = some 0x00#8 := by decide

/-- V-N1. -/
theorem test_nomapper_two_banks :
    (after (.cpuRdPrgLo 0x8000) (noMapperBlock [0xAA, 0xBB] 0)).result = some 0xAA#8
    ∧ (after (.cpuRdPrgHi 0xC000) (noMapperBlock [0xAA, 0xBB] 0)).result = some 0xBB#8 := by decide

/-- V-N2, V-N3. -/
theorem test_nomapper_other_counts :
    (after (.cpuRdPrgHi 0xC000) (noMapperBlock [0xAA] 0)).result = some 0xAA#8
    ∧ (after (.cpuRdPrgLo 0x8000) (noMapperBlock [0xAA, 0xBB, 0xCC] 0)).result = some 0x00#8 := by
  decide

/-! ### The MMC1 (section 2.6) -/

/-- V-S4. -/
theorem test_serial_reset :
    (after (.cpuWrMapCtrl 0x9FFF 0x81) (mmc1Block (regs 0x02 0 0 0) 1 [] .zeroFill)).mapper
      = .mmc1 (regs 0x0E 0 0 0) := by decide

/-- V-S1, the fifth write of 1, 1, 0, 0, 1. -/
theorem test_serial_commit :
    (after (.cpuWrMapPrg 0xE000 0x01)
        (mmc1Block { regs 0x0E 0 0 0 with sr := 0x06, cnt := 4 } 1 [] .zeroFill)).mapper
      = .mmc1 (regs 0x0E 0 0 0x13) := by decide

/-- V-S3: the bits before the fifth commit nothing, whatever their address. -/
theorem test_serial_shift :
    (after (.cpuWrMapChr0 0xA000 0x00)
        (mmc1Block { regs 0x0E 0 0 0 with sr := 0x10, cnt := 1 } 1 [] .zeroFill)).mapper
      = .mmc1 { regs 0x0E 0 0 0 with sr := 0x08, cnt := 2 }
    ∧ (after (.cpuWrMapChr1 0xC000 0x01)
        (mmc1Block { regs 0x0E 0 0 0 with sr := 0x08, cnt := 2 } 1 [] .zeroFill)).mapper
      = .mmc1 { regs 0x0E 0 0 0 with sr := 0x14, cnt := 3 } := by decide

/-- V-S5 to V-S8. -/
theorem test_mmc1_prg_modes :
    [(0x0E#5, 3#5), (0x0A#5, 3#5), (0x02#5, 3#5), (0x06#5, 5#5)].map (fun p =>
      ((after (.cpuRdPrgLo 0x8000) (mmc1Block (regs p.1 0 0 p.2) 8 [] .zeroFill)).result,
        (after (.cpuRdPrgHi 0xC000) (mmc1Block (regs p.1 0 0 p.2) 8 [] .zeroFill)).result))
      = [(some 3#8, some 7#8), (some 0#8, some 3#8), (some 2#8, some 3#8), (some 4#8, some 5#8)] := by
  decide

/-- V-S9, V-S10. -/
theorem test_mmc1_out_of_range :
    (after (.cpuRdPrgLo 0x8000) (mmc1Block (regs 0x0E 0 0 5) 4 [] .zeroFill)).result = some 0x00#8
    ∧ (after (.cpuRdPrgLo 0x8000) (mmc1Block (regs 0x0E 0 0 5) 4 [] .wrap)).result
        = some 0x01#8 := by decide

/-- V-C1, V-C2. -/
theorem test_pattern_read :
    (after (.pbRdPat 0x0000) (mmc1Block (regs 0x0E 3 0 0) 1 twoChr .zeroFill)).result = some 0x42#8
    ∧ (after (.pbRdPat 0x1000) (mmc1Block (regs 0x1E 3 0 0) 1 twoChr .zeroFill)).result
        = some 0x40#8 := by decide

/-- V-C4, and V-M7: a CHR ROM is not written. -/
theorem test_pattern_write :
    (after (.pbWrPat 0x0005 0xAB) (mmc1Block (regs 0x1E 1 0 0) 1 [] .zeroFill)).chrRam
        = [(0x1005, 0xAB#8)]
    ∧ after (.pbWrPat 0x0000 0xAB) { State.reset with chr := twoChr.take 1 }
        = { State.reset with chr := twoChr.take 1 } := by decide

/-! ### Nametables and palette (section 2.4) -/

/-- V-M1, V-M4. -/
theorem test_nametable_write :
    (after (.pbWrNt 0x3405 0x66) State.reset).ntRam = [(0x005, 0x66#8)]
    ∧ (after (.pbWrNt 0x2005 0x55) (mmc1Block (regs 0x0D 0 0 0) 1 [] .zeroFill)).ntRam
        = [(0x405, 0x55#8)] := by decide

/-- V-M1: read back through the other slot; V-M3. -/
theorem test_nametable_read :
    (after (.pbRdNt 0x2005) { State.reset with ntRam := [(0x005, 0x66#8)] }).result = some 0x66#8
    ∧ (after (.pbRdNt 0x2005) { mmc1Block (regs 0x0C 0 0 0) 1 [] .zeroFill with
        ntRam := [(0x005, 0x77#8)] }).result = some 0x77#8 := by decide

/-- V-M5. -/
theorem test_palette :
    (after (.pbWrPal 0x3F10 0x2A) State.reset).palRam = [(0, 0x2A#8)]
    ∧ (after (.pbRdPal 0x3F30) { State.reset with palRam := [(0, 0x2A#8)] }).result
        = some 0x2A#8 := by decide

/-- E1: the translators. -/
theorem test_translators :
    [0x2123#16, 0x2523#16, 0x2923#16, 0x2D23#16].map (fun a =>
      (ntTranslate .horizontal a, ntTranslate .vertical a, ntTranslate .singleLow a))
      = [(0x2123#16, 0x2123#16, 0x2123#16), (0x2123#16, 0x2523#16, 0x2123#16),
         (0x2923#16, 0x2123#16, 0x2123#16), (0x2923#16, 0x2523#16, 0x2123#16)] := by decide

/-! ### Timing (section 2.7) -/

/-- V-T1 to V-T3. -/
theorem test_incCoarseX :
    [0x0005#15, 0x001F#15, 0x041F#15].map incCoarseX = [0x0006#15, 0x0400#15, 0x0000#15] := by decide

/-- V-T4 to V-T10. -/
theorem test_incY :
    [0x0000#15, 0x7000#15, 0x73A0#15, 0x7BA0#15, 0x73C0#15, 0x73E0#15, 0x7FE0#15].map incY
      = [0x1000#15, 0x0020#15, 0x0800#15, 0x0000#15, 0x03E0#15, 0x0000#15, 0x0C00#15] := by decide

/-- V-T14: vblank start. -/
theorem test_tick_vblank :
    (after .tick (withPpu { Ppu.reset with ctrl1 := 0x80, cyc := 82181 })).ppu
      = { Ppu.reset with ctrl1 := 0x80, cyc := 82182, vblank := true, nmi := true,
                         events := [.renderSync] } := by decide

/-- V-R9: pixel 253 is background, 254 the sprite's, and the hit flag is set. -/
theorem test_tick_render :
    (after .tick (rowBlock 254)).ppu.s0hit = true
    ∧ (after .tick (rowBlock 254)).ppu.events[254]? = some (.setPixel 253 1 0x30#8)
    ∧ (after .tick (rowBlock 254)).ppu.events[255]? = some (.setPixel 254 1 0x16#8) := by
  decide +kernel

/-- P4, row 6. -/
theorem test_nmi_ack :
    (after .nmiAck (withPpu { Ppu.reset with nmi := true })).ppu = Ppu.reset := by decide

/-! ### Reset, one step, the text form -/

/-- A step runs the word `withFetchWord` places. -/
theorem test_withFetchWord :
    (State.reset.withFetchWord 32 0x20000340).pending = [0x20000340#32]
    ∧ step (State.reset.withFetchWord 32 0x20000340)
        = .next (withPpu { Ppu.reset with oamAddr := 0x40 }) := ⟨by decide, rfl⟩

/-- 30_encoding.md section 4: a line with a register name. -/
theorem test_parse_write :
    parseLine ['w', 'r', ' ', 'p', 'p', 'u', '[', 'A', 'D', 'D', 'R', ']', ',', ' ', '0', 'x', '2', '1']
      = some (.wrPpu 6 0x21, none)
    ∧ assemble (.wrPpu 6 0x21) = [0x20000621#32] := by decide

/-- R109 (P1 row 1, P2 row 2, P3 row 10). -/
theorem test_pseudo :
    assemble (.setv 0x2108) = [0x20000621#32, 0x20000608#32]
    ∧ assemble (.mmc1 0xE000 3)
        = [0x60E00001#32, 0x60E00001#32, 0x60E00000#32, 0x60E00000#32, 0x60E00000#32]
    ∧ assemble (.oam 0 0x00 0x01 0x00 0x04)
        = [0x20000300#32, 0x20000400#32, 0x20000401#32, 0x20000400#32, 0x20000404#32] := by decide

/-! ### Witnesses: states and operands that meet each obligation's hypotheses -/

theorem witness_DecodeOfEncodeIsTheInstruction :
    ([.ppuBadIndex false 8 0xFF, .ppuBadIndex true 0xFFFF 0,
      .cpuRdUnmappedLo 0x3FFF, .cpuRdUnmappedHi 0x4000, .cpuRdUnmappedHi 0x5FFF,
      .cpuRdSram 0x6000, .cpuRdSram 0x7FFF, .cpuRdPrgLo 0x8000, .cpuRdPrgLo 0xBFFF,
      .cpuRdPrgHi 0xC000, .cpuWrMapCtrl 0x9FFF 1, .cpuWrMapChr0 0xA000 1, .cpuWrMapChr0 0xBFFF 1,
      .cpuWrMapChr1 0xC000 1, .cpuWrMapChr1 0xDFFF 1, .cpuWrMapPrg 0xE000 1,
      .pbRdPal 0xFF00, .pbWrNt 0x3EFF 1, .pbRdNt 0x2000, .pbWrPat 0x1FFF 1, .tick] :
      List Instr).all Instr.wf = true := by decide

theorem witness_EncodeOfDecodeIsTheWord :
    decodeWord 0x000002AB#32 = .ok .ppuRdStatus ∧ dataIgnored .ppuRdStatus = true
    ∧ decodeWord 0x20000621#32 = .ok (.ppuWrAddr 0x21) ∧ dataIgnored (.ppuWrAddr 0x21) = false := by
  decide

theorem witness_CpuPortRowsDecode :
    [0x40000000#32, 0x403FFF00#32, 0x40400000#32, 0x405FFF00#32, 0x40600000#32, 0x407FFF00#32,
     0x40800000#32, 0x40BFFF00#32, 0x40C00000#32, 0x40FFFF00#32].map
        (fun w => (rsvField w, portField w, rwField w, (addrField w).toNat))
      = [0x0000, 0x3FFF, 0x4000, 0x5FFF, 0x6000, 0x7FFF, 0x8000, 0xBFFF, 0xC000, 0xFFFF].map
        (fun a => (0#5, 1#2, false, a))
    ∧ [0x60000000#32, 0x603FFF00#32, 0x60400000#32, 0x605FFF00#32, 0x60600000#32, 0x607FFF00#32,
       0x60800000#32, 0x609FFF00#32, 0x60A00000#32, 0x60BFFF00#32, 0x60C00000#32, 0x60DFFF00#32,
       0x60E00000#32, 0x60FFFF00#32].map
        (fun w => (rsvField w, portField w, rwField w, (addrField w).toNat))
      = [0x0000, 0x3FFF, 0x4000, 0x5FFF, 0x6000, 0x7FFF, 0x8000, 0x9FFF, 0xA000, 0xBFFF, 0xC000,
         0xDFFF, 0xE000, 0xFFFF].map (fun a => (0#5, 1#2, true, a))
    ∧ State.reset.Running ∧ State.reset.mapper = .noMapper .horizontal
    ∧ (mmc1Block (regs 0x0E 0 0 0) 1 [] .zeroFill).Running
    ∧ (mmc1Block (regs 0x0E 0 0 0) 1 [] .zeroFill).mapper = .mmc1 (regs 0x0E 0 0 0) := by
  decide

theorem witness_InvalidWordsAreRefused :
    rsvField 0x01000200#32 ≠ 0#5
    ∧ (portField 0xC0000000#32 = 3#2 ∧ rwField 0xC0000000#32 = false)
    ∧ (portField 0xE0000200#32 = 3#2 ∧ addrField 0xE0000200#32 ≠ 0#16
        ∧ addrField 0xE0000200#32 ≠ 1#16)
    ∧ (rsvField 0xE0000100#32 = 0#5 ∧ rwField 0xE0000100#32 = true
        ∧ addrField 0xE0000100#32 = 1#16)
    ∧ (State.reset.setPending [0x01000200#32]).pending = 0x01000200#32 :: [] := by decide

theorem witness_ConstructionResetValues :
    resetLoader.chr = [] ∧ resetLoader.prgRamUnits = 1 ∧ resetLoader.variant = .noMapper
    ∧ resetLoader.mirroring = .horizontal
    ∧ { resetLoader with mirroring := .vertical }.mirroring = .vertical
    ∧ { resetLoader with variant := .mmc1, mirroring := .vertical }.variant = .mmc1 := by decide

/-- Each disjunct of `bad`, and a loader with none of them. -/
theorem witness_ConstructionHaltsOnFailedChecks :
    ({ resetLoader with prgRamUnits := 2 } : Loader).prgRamUnits > 1
    ∧ failedChecks { resetLoader with prgRamUnits := 2 } = [.prgRamUnits]
    ∧ failedChecks { resetLoader with prg := [{ size := 8192, bytes := [] }] } = [.prgBufferSize]
    ∧ failedChecks { resetLoader with chr := [{ size := 4096, bytes := [] }] } = [.chrBufferSize]
    ∧ failedChecks { resetLoader with chr := twoChr } = [.noMapperChrCount]
    ∧ failedChecks { resetLoader with mirroring := .other 2 } = [.noMapperMirroring]
    ∧ failedChecks { resetLoader with variant := .mmc1 } = [.mmc1PrgCount]
    ∧ failedChecks resetLoader = [] := by decide

theorem witness_ConstructionMeetsTheInvariant :
    inputsWf { resetLoader with prg := [{ size := 16384, bytes := [(0x3FFF, 0xAA#8)] }],
                                chr := twoChr }
      { resetRam with oam := [(0, 0xFF#8), (255, 0x01#8)], ntRam := [(2047, 0x01#8)],
                      palRam := [(31, 0x0F#8)] } = true := by decide

theorem witness_StepKeepsTheInvariant :
    (State.reset.setPending [0x200007AB#32]).wf = true
    ∧ step (State.reset.setPending [0x200007AB#32]) = .next (after (.ppuWrData 0xAB) State.reset)
    ∧ (halted.setPending [0x200007AB#32]).wf = true := ⟨by decide, rfl, by decide⟩

theorem witness_StepRunsTheDecodedTransaction :
    State.reset.pending = []
    ∧ (State.reset.setPending [0xE0000000#32, 0xE0000100#32]).pending
        = 0xE0000000#32 :: [0xE0000100#32]
    ∧ decodeWord 0xE0000000#32 = .ok .tick := by decide

theorem witness_HaltedBlockTakesNoEffect :
    halted.fault = some (.writeOnlyRegisterRead 0#3) := rfl

theorem witness_HaltedBlockStaysHaltedOverRuns :
    (halted.setPending [0xE0000000#32]).fault = some (.writeOnlyRegisterRead 0#3)
    ∧ blockRun 1 (halted.setPending [0xE0000000#32]) = .next halted :=
  ⟨rfl, (blockRun_of_step (n := 0) (s' := halted) rfl).trans rfl⟩

theorem witness_RunningBlockHaltsExactlyOnFaults :
    State.reset.Running ∧ haltReason .ppuRdAddr ≠ none ∧ haltReason .tick = none := by decide

/-- The hypotheses of Control1WriteResult, PlainRegisterWriteResults, WriteOnlyRegisterReadsHalt,
BadRegisterIndexHalts, StatusReadResult, VramDataReadResult, ConsecutiveVramReadsAreOneLate,
UnmappedCpuAccessResult, CpuPortIsCpuSpaceAccess, BusPortIsPpuSpaceAccess and NmiAckResult. -/
theorem witness_Running : State.reset.Running := rfl

theorem witness_OamDataWriteResult :
    (withPpu { Ppu.reset with oamAddr := 0xFF }).Running
    ∧ (withPpu { Ppu.reset with oamAddr := 0xFF }).wf = true := by decide

/-- Both phases. -/
theorem witness_ScrollAndFirstAddressWriteResults :
    State.reset.Running ∧ State.reset.ppu.w = false
    ∧ (withPpu { Ppu.reset with w := true }).Running
    ∧ (withPpu { Ppu.reset with w := true }).ppu.w = true := by decide

theorem witness_SecondAddressWriteResult :
    (withPpu { Ppu.reset with w := true }).Running
    ∧ (withPpu { Ppu.reset with w := true }).ppu.w = true := by decide

/-- A place that is stored to, and a CHR ROM place that is not. -/
theorem witness_VramDataWriteResult :
    State.reset.Running ∧ State.reset.wf = true
    ∧ locWritable State.reset (ppuLocate State.reset (State.reset.ppu.v.setWidth 16 &&& 0x3FFF#16))
        = true
    ∧ ({ State.reset with chr := twoChr.take 1 } : State).wf = true
    ∧ locWritable { State.reset with chr := twoChr.take 1 }
        (ppuLocate { State.reset with chr := twoChr.take 1 } 0x0000#16) = false := by decide

/-- Both ends of the range, with PRG RAM and without. -/
theorem witness_SramAccessResult :
    State.reset.Running ∧ State.reset.wf = true ∧ State.reset.prgRamUnits = 1
    ∧ 0x6000 ≤ (0x6000#16 : Addr).toNat ∧ (0x7FFF#16 : Addr).toNat ≤ 0x7FFF
    ∧ (noMapperBlock [] 0).Running ∧ (noMapperBlock [] 0).wf = true
    ∧ (noMapperBlock [] 0).prgRamUnits ≠ 1 := by decide

/-- Each bank count, at both ends of each window. -/
theorem witness_NoMapperPrgWindows :
    (noMapperBlock [0xAA, 0xBB] 0).Running
    ∧ (noMapperBlock [0xAA, 0xBB] 0).mapper = .noMapper .horizontal
    ∧ (noMapperBlock [0xAA, 0xBB] 0).prg
        = [{ size := 16384, bytes := [(0, 0xAA#8)] }, { size := 16384, bytes := [(0, 0xBB#8)] }]
    ∧ (noMapperBlock [0xAA] 0).prg = [{ size := 16384, bytes := [(0, 0xAA#8)] }]
    ∧ (noMapperBlock [0xAA, 0xBB, 0xCC] 0).prg.length ≠ 1
    ∧ (noMapperBlock [0xAA, 0xBB, 0xCC] 0).prg.length ≠ 2
    ∧ 0x8000 ≤ (0x8000#16 : Addr).toNat ∧ (0xBFFF#16 : Addr).toNat ≤ 0xBFFF
    ∧ 0xC000 ≤ (0xC000#16 : Addr).toNat ∧ 0xC000 ≤ (0xFFFF#16 : Addr).toNat := by decide

/-- Each PRG mode, at both ends of each window. -/
theorem witness_Mmc1PrgWindows :
    (mmc1Block (regs 0x0E 0 0 3) 8 [] .zeroFill).Running
    ∧ (mmc1Block (regs 0x0E 0 0 3) 8 [] .zeroFill).mapper = .mmc1 (regs 0x0E 0 0 3)
    ∧ (mmc1Block (regs 0x0E 0 0 3) 8 [] .zeroFill).prg ≠ []
    ∧ [0x02#5, 0x06#5, 0x0A#5, 0x0E#5].map controlPrgm = [0#2, 1#2, 2#2, 3#2]
    ∧ 0x8000 ≤ (0x8000#16 : Addr).toNat ∧ (0xBFFF#16 : Addr).toNat ≤ 0xBFFF
    ∧ 0xC000 ≤ (0xC000#16 : Addr).toNat ∧ 0xC000 ≤ (0xFFFF#16 : Addr).toNat := by decide

theorem witness_CpuPortDoesNotSeeThePpu :
    portOf (.cpuWrMapCtrl 0x8000 0x80) = 1#2 ∧ portOf (.cpuRdSram 0x6000) = 1#2 := by decide

/-- Each clause: NoMapper, the reset bit, a bit below the fifth, the fifth bit with each target at both
ends of its range. -/
theorem witness_SerialWriteResults :
    State.reset.Running ∧ State.reset.mapper = .noMapper .horizontal
    ∧ (mmc1Block (regs 0x0E 0 0 0) 1 [] .zeroFill).Running
    ∧ (mmc1Block (regs 0x0E 0 0 0) 1 [] .zeroFill).mapper = .mmc1 (regs 0x0E 0 0 0)
    ∧ (0x80#8 : Byte).getLsbD 7 = true
    ∧ ((0x01#8 : Byte).getLsbD 7 = false ∧ (regs 0x0E 0 0 0).cnt ≠ 4)
    ∧ (mmc1Block { regs 0x0E 0 0 0 with cnt := 4 } 1 [] .zeroFill).Running
    ∧ ({ regs 0x0E 0 0 0 with cnt := 4 } : Mmc1).cnt = 4
    ∧ 0x8000 ≤ (0x8000#16 : Addr).toNat ∧ (0x9FFF#16 : Addr).toNat ≤ 0x9FFF
    ∧ 0xA000 ≤ (0xA000#16 : Addr).toNat ∧ (0xBFFF#16 : Addr).toNat ≤ 0xBFFF
    ∧ 0xC000 ≤ (0xC000#16 : Addr).toNat ∧ (0xDFFF#16 : Addr).toNat ≤ 0xDFFF
    ∧ 0xE000 ≤ (0xE000#16 : Addr).toNat ∧ 0xE000 ≤ (0xFFFF#16 : Addr).toNat := by decide

theorem witness_FiveSerialWritesCommitOnce :
    (mmc1Block (regs 0x0E 0 0 0) 1 [] .zeroFill).Running
    ∧ (mmc1Block (regs 0x0E 0 0 0) 1 [] .zeroFill).mapper = .mmc1 (regs 0x0E 0 0 0)
    ∧ (regs 0x0E 0 0 0).cnt = 0
    ∧ (∀ a ∈ [0x8000#16, 0xA000#16, 0xC000#16, 0x8000#16, 0xE000#16], 0x8000 ≤ a.toNat)
    ∧ (∀ d ∈ [0x01#8, 0x00#8, 0x7F#8, 0x00#8, 0x01#8], d.getLsbD 7 = false) :=
  ⟨rfl, rfl, rfl, by simp, by decide⟩

/-- Both ends of both ranges, and the four aliased palette entries. -/
theorem witness_NametableAndPaletteReadResults :
    State.reset.Running
    ∧ [0x2000#16, 0x3EFF#16, 0xE000#16].all (fun a => Addr.busWithin a 0x2000 0x3EFF) = true
    ∧ [0x3F00#16, 0x3F10#16, 0x3F14#16, 0x3F18#16, 0x3F1C#16, 0x3FFF#16, 0xFF00#16].all
        (fun a => Addr.busWithin a 0x3F00 0x3FFF) = true := by decide

/-- Each of the five mappings, at both ends of both 4KB halves. -/
theorem witness_PatternReadResults :
    [0x0000#16, 0x0FFF#16, 0x1000#16, 0x1FFF#16, 0x4000#16].all
        (fun a => Addr.busWithin a 0x0000 0x1FFF) = true
    ∧ State.reset.Running ∧ State.reset.mapper = .noMapper .horizontal ∧ State.reset.chr = []
    ∧ ({ State.reset with chr := twoChr.take 1 } : State).chr
        = [{ size := 8192, bytes := [(0, 0x40#8), (0x1000, 0x41#8)] }]
    ∧ (mmc1Block (regs 0x1E 3 0 0) 1 twoChr .zeroFill).Running
    ∧ (mmc1Block (regs 0x1E 3 0 0) 1 twoChr .zeroFill).chr ≠ []
    ∧ (mmc1Block (regs 0x1E 3 0 0) 1 [] .zeroFill).chr = []
    ∧ controlChrm 0x0E#5 = false ∧ controlChrm 0x1E#5 = true := by decide

/-- Both ends of each range. -/
theorem witness_BusWriteResults :
    State.reset.Running ∧ State.reset.wf = true
    ∧ [0x0000#16, 0x1FFF#16].all (fun a => Addr.busWithin a 0x0000 0x1FFF) = true
    ∧ [0x2000#16, 0x3EFF#16].all (fun a => Addr.busWithin a 0x2000 0x3EFF) = true
    ∧ [0x3F00#16, 0x3FFF#16].all (fun a => Addr.busWithin a 0x3F00 0x3FFF) = true := by decide

/-- Each mapper setting. -/
theorem witness_MirroringSelectsBlocks :
    [0x0C#5, 0x0D#5, 0x0E#5, 0x0F#5].map controlMir = [0#2, 1#2, 2#2, 3#2]
    ∧ [Mapper.noMapper .horizontal, .noMapper .vertical].map ntMode
        = [.horizontal, .vertical] := by decide

theorem witness_PpuSpaceMirrors :
    0x3F00 ≤ (0x3F00#16 : Addr).toNat ∧ (0x3FDF#16 : Addr).toNat ≤ 0x3FDF
    ∧ 0x3000 ≤ (0x3000#16 : Addr).toNat ∧ (0x3EFF#16 : Addr).toNat ≤ 0x3EFF := by decide

/-- A counter at each row's offset, at the ends of row 4 and one tick past each row; both policies. -/
theorem witness_TickResult :
    [(0, 255), (239, 255), (0, 256), (0, 257), (261, 280), (261, 304), (241, 0), (261, 0), (261, 279),
      (261, 305), (240, 255), (241, 1), (0, 0)].all (fun p =>
        decide ((atTick p.1 p.2).fault = none)
          && decide (tickScanline (atTick p.1 p.2).ppu.cyc = p.1)
          && decide (tickOffset (atTick p.1 p.2).ppu.cyc = p.2)) = true
    ∧ State.reset.params.guard = .literal
    ∧ (rowBlock 0).ppu.ctrl2.getLsbD 3 = true ∧ (rowBlock 0).ppu.ctrl2.getLsbD 4 = true
    ∧ (rowBlock 0).ppu.vblank = false := by decide

/-- Each clause: the flag rises and falls. -/
theorem witness_StatusFlagWriters :
    (exec .tick (atTick 241 0) = .next (after .tick (atTick 241 0))
      ∧ (atTick 241 0).ppu.vblank = false ∧ (after .tick (atTick 241 0)).ppu.vblank = true)
    ∧ (exec .ppuRdStatus vblankBlock = .next (after .ppuRdStatus vblankBlock)
      ∧ vblankBlock.ppu.vblank = true ∧ (after .ppuRdStatus vblankBlock).ppu.vblank = false)
    ∧ (exec .tick (rowBlock 254) = .next (after .tick (rowBlock 254))
      ∧ (rowBlock 254).ppu.s0hit = false ∧ (after .tick (rowBlock 254)).ppu.s0hit = true)
    ∧ (exec .tick nineBlock = .next (after .tick nineBlock)
      ∧ nineBlock.ppu.overflow = false ∧ (after .tick nineBlock).ppu.overflow = true)
    ∧ (exec .tick endBlock = .next (after .tick endBlock) ∧ endBlock.ppu.vblank = true
      ∧ endBlock.ppu.s0hit = true ∧ endBlock.ppu.overflow = true
      ∧ (after .tick endBlock).ppu.vblank = false ∧ (after .tick endBlock).ppu.s0hit = false
      ∧ (after .tick endBlock).ppu.overflow = false) :=
  ⟨⟨rfl, by decide, by decide⟩, ⟨rfl, by decide, by decide⟩, ⟨rfl, by decide, by decide +kernel⟩,
    ⟨rfl, by decide, by decide +kernel⟩, ⟨rfl, by decide, by decide, by decide, by decide, by decide,
      by decide⟩⟩

/-- The output rises and falls. -/
theorem witness_NmiRaiseAndClear :
    (exec .tick enabledBlock = .next (after .tick enabledBlock)
      ∧ enabledBlock.ppu.nmi = false ∧ (after .tick enabledBlock).ppu.nmi = true)
    ∧ (exec .nmiAck (withPpu { Ppu.reset with nmi := true })
        = .next (after .nmiAck (withPpu { Ppu.reset with nmi := true }))
      ∧ (withPpu { Ppu.reset with nmi := true }).ppu.nmi = true
      ∧ (after .nmiAck (withPpu { Ppu.reset with nmi := true })).ppu.nmi = false) :=
  ⟨⟨rfl, by decide, by decide⟩, ⟨rfl, by decide, by decide⟩⟩

theorem witness_CounterAndTraceMoveOnlyByTick :
    exec .nmiAck State.reset = .next (after .nmiAck State.reset)
    ∧ exec .tick State.reset = .next (after .tick State.reset) ∧ State.reset.Running :=
  ⟨rfl, rfl, rfl⟩

/-- With fine X 0 (32 tiles) and 7 (33 tiles, R211). -/
theorem witness_BackgroundScanlineResult :
    backgroundBlock.Running ∧ rendersNow backgroundBlock
    ∧ ctrl2Spe backgroundBlock.ppu.ctrl2 = false ∧ backgroundBlock.ppu.x = 0#3
    ∧ fineXBlock.Running ∧ rendersNow fineXBlock
    ∧ ctrl2Spe fineXBlock.ppu.ctrl2 = false ∧ fineXBlock.ppu.x = 7#3 :=
  ⟨rfl, (by unfold rendersNow; decide), by decide, by decide, rfl, (by unfold rendersNow; decide),
    by decide, by decide⟩

/-- The hypotheses of ComposedScanlineResult, SpriteOverflowRule and SpriteZeroHitRule, with a hit and
with an overflow. -/
theorem witness_ComposedScanlineResult :
    (rowBlock 254).Running ∧ rendersNow (rowBlock 254)
    ∧ ctrl2Spe (rowBlock 254).ppu.ctrl2 = true
    ∧ nineBlock.Running ∧ rendersNow nineBlock ∧ ctrl2Spe nineBlock.ppu.ctrl2 = true :=
  ⟨rfl, (by unfold rendersNow; decide), by decide, rfl, (by unfold rendersNow; decide), by decide⟩

/-- A count of 9 and one of 1. -/
theorem witness_SpriteOverflowRule :
    nineBlock.Running ∧ rendersNow nineBlock ∧ ctrl2Spe nineBlock.ppu.ctrl2 = true
    ∧ inRangeFrom nineBlock (tickScanline nineBlock.ppu.cyc) 0 = 9
    ∧ inRangeFrom (rowBlock 254) (tickScanline (rowBlock 254).ppu.cyc) 0 = 1 :=
  ⟨rfl, (by unfold rendersNow; decide), by decide, by decide +kernel, by decide +kernel⟩

/-- V-R9 hits at pixel 254; V-R10 does not. -/
theorem witness_SpriteZeroHitRule :
    (rowBlock 254).Running ∧ rendersNow (rowBlock 254)
    ∧ ctrl2Spe (rowBlock 254).ppu.ctrl2 = true
    ∧ (rowBlock 255).Running ∧ rendersNow (rowBlock 255)
    ∧ (after .tick (rowBlock 255)).ppu.s0hit = false :=
  ⟨rfl, (by unfold rendersNow; decide), by decide, rfl, (by unfold rendersNow; decide),
    by decide +kernel⟩

/-- The columns 0 and 7, and a sprite of Y 5 on the first and the last scanline it covers, flipped and
not: the expected rows and indexes are R224's and R215's. -/
theorem witness_RendererFetchFormulas :
    (0 ≤ 7 ∧ (colorIndex 0x80 0x80 0).toNat = 3 ∧ 7 ≤ 7 ∧ (colorIndex 0x01 0x00 7).toNat = 1)
    ∧ ((5#8 : Byte).toNat + 1 ≤ 6 ∧ 6 ≤ (5#8 : Byte).toNat + 8
      ∧ spriteRow 6 { y := 5, tile := 0, attr := 0x00, x := 0 } = 0#3
      ∧ spriteRow 6 { y := 5, tile := 0, attr := 0x80, x := 0 } = 7#3)
    ∧ ((5#8 : Byte).toNat + 1 ≤ 13 ∧ 13 ≤ (5#8 : Byte).toNat + 8
      ∧ spriteRow 13 { y := 5, tile := 0, attr := 0x00, x := 0 } = 7#3
      ∧ spriteRow 13 { y := 5, tile := 0, attr := 0x80, x := 0 } = 0#3) := by decide

/-- Sprite 0 of `rowBlock` (Y 0) on the first and the last scanline it covers, at its first and last
columns, where it writes colour 0x16, and just outside them. -/
theorem witness_RenderedPixelFormulas :
    (cellRead (rowBlock 8).oam (4 * 0)).toNat + 1 ≤ 1
    ∧ 8 ≤ (cellRead (rowBlock 8).oam (4 * 0)).toNat + 8
    ∧ [7, 8, 15, 16].map (spriteColorAt (rowBlock 8) 1 0) = [none, some 0x16#8, some 0x16#8, none]
    ∧ [7, 8, 15, 16].map (spriteColorAt (rowBlock 8) 8 0)
        = [none, some 0x16#8, some 0x16#8, none] := by decide +kernel

theorem witness_SpriteRangeRule : 239 ≤ (0xEF#8 : Byte).toNat ∧ 239 < 240 := by decide

/-- Each port, and a register-7 write that reaches the mapper's storage. -/
theorem witness_PortsKeepOwnership :
    exec (.cpuWrSram 0x6000 1) State.reset = .next (after (.cpuWrSram 0x6000 1) State.reset)
    ∧ [Instr.ppuWrData 1, .cpuWrSram 0x6000 1, .pbWrPal 0x3F00 1, .tick].map portOf
        = [0#2, 1#2, 2#2, 3#2]
    ∧ exec (.ppuWrData 1) State.reset = .next (after (.ppuWrData 1) State.reset) :=
  ⟨rfl, by decide, rfl⟩

theorem witness_OamWrittenOnlyByRegisterFour :
    exec (.ppuWrOamData 1) State.reset = .next (after (.ppuWrOamData 1) State.reset)
    ∧ (after (.ppuWrOamData 1) State.reset).oam ≠ State.reset.oam := ⟨rfl, by decide⟩

theorem witness_SetvLoadsTheVramAddress :
    State.reset.Running ∧ State.reset.ppu.w = false := by decide

end Sys2Proof.Tests
end

/-! ## Family 20_memory.md: the PRG windows -/

namespace Sys2Proof.Machine

/-! ### A read through a PRG window of a running block (41_mapper_access.md R153, R154) -/

section
variable {s : State} (h : s.Running) (a : Addr)
include h

theorem exec_cpuRdPrgLo_running : exec (.cpuRdPrgLo a) s
    = .next { s with result := some (prgRead s (lowerBank s) (a.toNat - 0x8000)) } :=
  transactRead_running h

theorem exec_cpuRdPrgHi_running : exec (.cpuRdPrgHi a) s
    = .next { s with result := some (prgRead s (upperBank s) (a.toNat - 0xC000)) } :=
  transactRead_running h

end

/-! ### The byte a window reads (R72) -/

@[simp] theorem prgRead_none (s : State) (offset : Nat) : prgRead s none offset = 0x00#8 := rfl

/-- A bank in range is read whatever the out-of-range policy (R88). -/
theorem prgRead_some_of_getElem? {s : State} {k : Nat} {rom : Rom} (h : s.prg[k]? = some rom)
    (offset : Nat) : prgRead s (some k) offset = cellRead rom.bytes offset := by
  obtain ⟨hk, -⟩ := List.getElem?_eq_some_iff.1 h
  simp [prgRead, romByte, selectBank_lt hk, h]

/-! ### The banks NoMapper's windows select, by the number of PRG banks (R78) -/

section
variable {s : State} {mir : Mirroring} (hm : s.mapper = .noMapper mir)
include hm

theorem lowerBank_noMapper_two (hn : s.prg.length = 2) : lowerBank s = some 0 := by
  simp [lowerBank, hm, hn]

theorem upperBank_noMapper_two (hn : s.prg.length = 2) : upperBank s = some 1 := by
  simp [upperBank, hm, hn]

theorem lowerBank_noMapper_one (hn : s.prg.length = 1) : lowerBank s = some 0 := by
  simp [lowerBank, hm, hn]

theorem upperBank_noMapper_one (hn : s.prg.length = 1) : upperBank s = some 0 := by
  simp [upperBank, hm, hn]

theorem lowerBank_noMapper_other (h1 : s.prg.length ≠ 1) (h2 : s.prg.length ≠ 2) :
    lowerBank s = none := by
  simp [lowerBank, hm, h1, h2]

theorem upperBank_noMapper_other (h1 : s.prg.length ≠ 1) (h2 : s.prg.length ≠ 2) :
    upperBank s = none := by
  simp [upperBank, hm, h1, h2]

end

/-- Settles O30: a running read answers the byte of the bank its window selects, and the count of
PRG banks alone decides which bank that is. -/
theorem noMapperPrgWindows : Obligations.NoMapperPrgWindows := by
  intro a s mir hrun hm
  dsimp only
  rw [exec_cpuRdPrgLo_running hrun, exec_cpuRdPrgHi_running hrun]
  refine ⟨fun _ _ => ⟨fun b0 b1 hp => ?_, fun b0 hp => ?_, fun h1 h2 => ?_⟩,
    fun _ => ⟨fun b0 b1 hp => ?_, fun b0 hp => ?_, fun h1 h2 => ?_⟩⟩
  · rw [lowerBank_noMapper_two hm (by simp [hp]),
      prgRead_some_of_getElem? (rom := b0) (by simp [hp])]
  · rw [lowerBank_noMapper_one hm (by simp [hp]),
      prgRead_some_of_getElem? (rom := b0) (by simp [hp])]
  · rw [lowerBank_noMapper_other hm h1 h2, prgRead_none]
  · rw [upperBank_noMapper_two hm (by simp [hp]),
      prgRead_some_of_getElem? (rom := b1) (by simp [hp])]
  · rw [upperBank_noMapper_one hm (by simp [hp]),
      prgRead_some_of_getElem? (rom := b0) (by simp [hp])]
  · rw [upperBank_noMapper_other hm h1 h2, prgRead_none]

end Sys2Proof.Machine

/-! ## Family 30_encoding.md: the CP-port table -/

namespace Sys2Proof

/-! ### The CP rows by address range (30_encoding.md R103) -/

section
variable {a : Addr}

theorem decodeCpuRead_unmappedLo (h : a.toNat ≤ 0x3FFF) :
    decodeCpuRead a = .cpuRdUnmappedLo a := by
  rw [decodeCpuRead, if_pos (by omega)]

theorem decodeCpuRead_unmappedHi (h : 0x4000 ≤ a.toNat ∧ a.toNat ≤ 0x5FFF) :
    decodeCpuRead a = .cpuRdUnmappedHi a := by
  rw [decodeCpuRead, if_neg (by omega), if_pos (by omega)]

theorem decodeCpuRead_sram (h : 0x6000 ≤ a.toNat ∧ a.toNat ≤ 0x7FFF) :
    decodeCpuRead a = .cpuRdSram a := by
  rw [decodeCpuRead, if_neg (by omega), if_neg (by omega), if_pos (by omega)]

theorem decodeCpuRead_prgLo (h : 0x8000 ≤ a.toNat ∧ a.toNat ≤ 0xBFFF) :
    decodeCpuRead a = .cpuRdPrgLo a := by
  rw [decodeCpuRead, if_neg (by omega), if_neg (by omega), if_neg (by omega), if_pos (by omega)]

theorem decodeCpuRead_prgHi (h : 0xC000 ≤ a.toNat) : decodeCpuRead a = .cpuRdPrgHi a := by
  rw [decodeCpuRead, if_neg (by omega), if_neg (by omega), if_neg (by omega), if_neg (by omega)]

variable (d : Byte)

theorem decodeCpuWrite_unmappedLo (h : a.toNat ≤ 0x3FFF) :
    decodeCpuWrite a d = .cpuWrUnmappedLo a d := by
  rw [decodeCpuWrite, if_pos (by omega)]

theorem decodeCpuWrite_unmappedHi (h : 0x4000 ≤ a.toNat ∧ a.toNat ≤ 0x5FFF) :
    decodeCpuWrite a d = .cpuWrUnmappedHi a d := by
  rw [decodeCpuWrite, if_neg (by omega), if_pos (by omega)]

theorem decodeCpuWrite_sram (h : 0x6000 ≤ a.toNat ∧ a.toNat ≤ 0x7FFF) :
    decodeCpuWrite a d = .cpuWrSram a d := by
  rw [decodeCpuWrite, if_neg (by omega), if_neg (by omega), if_pos (by omega)]

theorem decodeCpuWrite_mapCtrl (h : 0x8000 ≤ a.toNat ∧ a.toNat ≤ 0x9FFF) :
    decodeCpuWrite a d = .cpuWrMapCtrl a d := by
  rw [decodeCpuWrite, if_neg (by omega), if_neg (by omega), if_neg (by omega), if_pos (by omega)]

theorem decodeCpuWrite_mapChr0 (h : 0xA000 ≤ a.toNat ∧ a.toNat ≤ 0xBFFF) :
    decodeCpuWrite a d = .cpuWrMapChr0 a d := by
  rw [decodeCpuWrite, if_neg (by omega), if_neg (by omega), if_neg (by omega), if_neg (by omega),
    if_pos (by omega)]

theorem decodeCpuWrite_mapChr1 (h : 0xC000 ≤ a.toNat ∧ a.toNat ≤ 0xDFFF) :
    decodeCpuWrite a d = .cpuWrMapChr1 a d := by
  rw [decodeCpuWrite, if_neg (by omega), if_neg (by omega), if_neg (by omega), if_neg (by omega),
    if_neg (by omega), if_pos (by omega)]

theorem decodeCpuWrite_mapPrg (h : 0xE000 ≤ a.toNat) :
    decodeCpuWrite a d = .cpuWrMapPrg a d := by
  rw [decodeCpuWrite, if_neg (by omega), if_neg (by omega), if_neg (by omega), if_neg (by omega),
    if_neg (by omega), if_neg (by omega)]

end

end Sys2Proof

namespace Sys2Proof.Machine

/-! ### The MAP transactions (41_mapper_access.md R161 to R164) -/

section
variable {s : State} (a : Addr) (d : Byte)

theorem mapperWrite_noMapper {mir : Mirroring} (hm : s.mapper = .noMapper mir) :
    mapperWrite s a d = s := by
  simp [mapperWrite, hm]

theorem mapperWrite_mmc1 {m : Mmc1} (hm : s.mapper = .mmc1 m) :
    mapperWrite s a d = s.setMapper (.mmc1 (serialWrite m a d)) := by
  simp [mapperWrite, hm]

variable {a d}

/-- The four MAP rows have one meaning: the mapper write of their operands. -/
theorem exec_map {i : Instr}
    (hi : i ∈ [Instr.cpuWrMapCtrl a d, .cpuWrMapChr0 a d, .cpuWrMapChr1 a d, .cpuWrMapPrg a d]) :
    exec i s = transact (fun s => mapperWrite s a d) s := by
  simp only [List.mem_cons, List.not_mem_nil, or_false] at hi
  obtain rfl | rfl | rfl | rfl := hi <;> rfl

end

/-- Settles O4: the port and the RW bit choose the CP map, the address range its row; every MAP
transaction is the mapper write, which the mapper alone decides. -/
theorem cpuPortRowsDecode : Obligations.CpuPortRowsDecode := by
  refine ⟨fun w hr hp => ⟨fun hread => ?_, fun hwrite => ?_⟩,
    fun a d s hrun i hi => ⟨fun mir hm => ?_, fun m hm => ?_⟩⟩
  · simp only [decodeWord_cpuRead hr hp hread, Except.ok.injEq]
    exact ⟨decodeCpuRead_unmappedLo, decodeCpuRead_unmappedHi, decodeCpuRead_sram,
      decodeCpuRead_prgLo, decodeCpuRead_prgHi⟩
  · simp only [decodeWord_cpuWrite hr hp hwrite, Except.ok.injEq]
    exact ⟨decodeCpuWrite_unmappedLo _, decodeCpuWrite_unmappedHi _, decodeCpuWrite_sram _,
      decodeCpuWrite_mapCtrl _, decodeCpuWrite_mapChr0 _, decodeCpuWrite_mapChr1 _,
      decodeCpuWrite_mapPrg _⟩
  · rw [exec_map hi, transact_running hrun, mapperWrite_noMapper a d hm]; rfl
  · rw [exec_map hi, transact_running hrun, mapperWrite_mmc1 a d hm]; rfl

end Sys2Proof.Machine

/-! ## Family 40_ppu_registers.md: the register writes -/

namespace Sys2Proof.Machine

/-- The fold puts the low 2 bits of the byte on the nametable-select bits of `t` (R120): at bits 10
and 11 the mask clears the old bit, and the shift brings bit `i` of the byte to bit `10 + i`. -/
theorem foldNametable_select (t : VramAddr) (d : Byte) :
    (foldNametable t d).extractLsb' 10 2 = d.extractLsb' 0 2 := by
  ext i hi
  obtain rfl | rfl : i = 0 ∨ i = 1 := by omega
  · simp [foldNametable]
  · simp [foldNametable]

/-! ### A register write of a running block (R120 to R123, R128) -/

section
variable {s : State} (h : s.Running) (d : Byte)
include h

theorem exec_ppuWrCtrl1_running : exec (.ppuWrCtrl1 d) s
    = .next { s with
        ppu := { s.ppu with ctrl1 := d, t := foldNametable s.ppu.t d }, result := none } := by
  rw [exec, execPpuWrCtrl1, transact_running h]; rfl

theorem exec_ppuWrCtrl2_running : exec (.ppuWrCtrl2 d) s
    = .next { s with ppu := { s.ppu with ctrl2 := d }, result := none } := by
  rw [exec, execPpuWrCtrl2, transact_running h]; rfl

theorem exec_ppuWrStatus_running : exec (.ppuWrStatus d) s = .next { s with result := none } := by
  rw [exec, execPpuWrStatus, transact_running h]; rfl

theorem exec_ppuWrOamAddr_running : exec (.ppuWrOamAddr d) s
    = .next { s with ppu := { s.ppu with oamAddr := d }, result := none } := by
  rw [exec, execPpuWrOamAddr, transact_running h]; rfl

/-- With the toggle set, the byte completes `t` and the completed `t` is copied into `v`. -/
theorem exec_ppuWrAddr_second (hw : s.ppu.w = true) : exec (.ppuWrAddr d) s
    = .next { s with
        ppu := { s.ppu with
          t := foldAddrLow s.ppu.t d, v := foldAddrLow s.ppu.t d, w := false }
        result := none } := by
  have hsecond : ¬ s.ppu.w = false := by simp [hw]
  rw [exec, execPpuWrAddr, transact_running h, if_neg hsecond]
  rfl

end

/-- Settles O17: the next state is the write rule's, and the nametable bits of the new `t` are the
fold's. -/
theorem control1WriteResult : Obligations.Control1WriteResult :=
  fun d s hrun => ⟨exec_ppuWrCtrl1_running hrun d, foldNametable_select s.ppu.t d⟩

/-- Settles O18: each register's write rule. -/
theorem plainRegisterWriteResults : Obligations.PlainRegisterWriteResults :=
  fun d _ hrun => ⟨exec_ppuWrCtrl2_running hrun d, exec_ppuWrStatus_running hrun d,
    exec_ppuWrOamAddr_running hrun d⟩

/-- Settles O21: the write rule of the second phase. -/
theorem secondAddressWriteResult : Obligations.SecondAddressWriteResult :=
  fun d _ hrun hw => exec_ppuWrAddr_second hrun d hw

end Sys2Proof.Machine

/-! ## Family 41_mapper_access.md: the CPU-space port -/

namespace Sys2Proof.Machine

/-! ### PRG RAM, present or absent (20_memory.md R79, R84) -/

section
variable {s : State} (a : Addr) (d : Byte)

theorem sramRead_present (hu : s.prgRamUnits = 1) :
    sramRead s a = cellRead s.prgRam (a.toNat - 0x6000) := if_pos hu

theorem sramRead_absent (hu : s.prgRamUnits ≠ 1) : sramRead s a = 0x00#8 := if_neg hu

theorem sramWrite_present (hu : s.prgRamUnits = 1) :
    sramWrite s a d = s.setPrgRam (cellWrite s.prgRam (a.toNat - 0x6000) d) := if_pos hu

theorem sramWrite_absent (hu : s.prgRamUnits ≠ 1) : sramWrite s a d = s := if_neg hu

end

/-- PRG RAM of a state in the invariant is in canonical form. -/
theorem prgRam_wf {s : State} (h : s.wf = true) : Memory.wf Config.prgRamSize s.prgRam = true := by
  simp only [State.wf, memoriesWf, Bool.and_eq_true] at h
  obtain ⟨⟨⟨⟨⟨⟨-, hprgRam⟩, -⟩, -⟩, -⟩, -⟩, -⟩ := h
  exact hprgRam

/-! ### The accesses below the PRG windows of a running block (R151, R152, R155, R156) -/

section
variable {s : State} (h : s.Running) (a : Addr) (d : Byte)
include h

theorem exec_cpuRdUnmappedLo_running :
    exec (.cpuRdUnmappedLo a) s = .next { s with result := some 0x00#8 } :=
  transactRead_running h

theorem exec_cpuRdUnmappedHi_running :
    exec (.cpuRdUnmappedHi a) s = .next { s with result := some 0x00#8 } :=
  transactRead_running h

theorem exec_cpuRdSram_running :
    exec (.cpuRdSram a) s = .next { s with result := some (sramRead s a) } :=
  transactRead_running h

theorem exec_cpuWrUnmappedLo_running :
    exec (.cpuWrUnmappedLo a d) s = .next { s with result := none } :=
  transact_running (f := id) h

theorem exec_cpuWrUnmappedHi_running :
    exec (.cpuWrUnmappedHi a d) s = .next { s with result := none } :=
  transact_running (f := id) h

theorem exec_cpuWrSram_running :
    exec (.cpuWrSram a d) s = .next { sramWrite s a d with result := none } :=
  transact_running h

end

/-- Settles O29: the transaction is the PRG RAM access of its address, which the unit count decides;
a stored byte is read back there and nowhere else because PRG RAM is in canonical form. -/
theorem sramAccessResult : Obligations.SramAccessResult := by
  intro a d s hrun hwf _ _
  rw [exec_cpuRdSram_running hrun, exec_cpuWrSram_running hrun]
  refine ⟨fun hu => ?_, fun hu => ?_⟩
  · rw [sramRead_present a hu, sramWrite_present a d hu]
    exact ⟨rfl, _, rfl, rfl, fun k => cellRead_cellWrite_of_wf (prgRam_wf hwf) _ k d⟩
  · rw [sramRead_absent a hu, sramWrite_absent a d hu]
    exact ⟨rfl, rfl⟩

/-! ### CPU space by address range (20_memory.md R72, R73) -/

section
variable (s : State) {a : Addr}

theorem cpuRead_unmapped (h : a.toNat ≤ 0x5FFF) : cpuRead s a = 0x00#8 :=
  if_pos (by omega)

theorem cpuRead_sram (h : 0x6000 ≤ a.toNat ∧ a.toNat ≤ 0x7FFF) : cpuRead s a = sramRead s a := by
  rw [cpuRead, if_neg (by omega), if_pos (by omega)]

theorem cpuRead_prgLo (h : 0x8000 ≤ a.toNat ∧ a.toNat ≤ 0xBFFF) :
    cpuRead s a = prgRead s (lowerBank s) (a.toNat - 0x8000) := by
  rw [cpuRead, if_neg (by omega), if_neg (by omega), if_pos (by omega)]

theorem cpuRead_prgHi (h : 0xC000 ≤ a.toNat) :
    cpuRead s a = prgRead s (upperBank s) (a.toNat - 0xC000) := by
  rw [cpuRead, if_neg (by omega), if_neg (by omega), if_neg (by omega)]

variable (d : Byte)

theorem cpuWrite_unmapped (h : a.toNat ≤ 0x5FFF) : cpuWrite s a d = s := by
  rw [cpuWrite, if_pos (by omega)]

theorem cpuWrite_sram (h : 0x6000 ≤ a.toNat ∧ a.toNat ≤ 0x7FFF) :
    cpuWrite s a d = sramWrite s a d := by
  rw [cpuWrite, if_neg (by omega), if_pos (by omega)]

theorem cpuWrite_mapper (h : 0x8000 ≤ a.toNat) : cpuWrite s a d = mapperWrite s a d := by
  rw [cpuWrite, if_neg (by omega), if_neg (by omega)]

end

/-- A CPU-space write changes only PRG RAM and the mapper's registers. -/
theorem cpuWrite_frame (s : State) (a : Addr) (d : Byte) :
    cpuWrite s a d = { s with
      prgRam := (cpuWrite s a d).prgRam
      mapper := (cpuWrite s a d).mapper } := by
  obtain ha | ha | ha : a.toNat ≤ 0x5FFF ∨ (0x6000 ≤ a.toNat ∧ a.toNat ≤ 0x7FFF)
      ∨ 0x8000 ≤ a.toNat := by omega
  · rw [cpuWrite_unmapped s d ha]
  · rw [cpuWrite_sram s d ha, sramWrite_frame]
  · rw [cpuWrite_mapper s d ha, mapperWrite_frame]

theorem cpuWrite_ppu (s : State) (a : Addr) (d : Byte) : (cpuWrite s a d).ppu = s.ppu := by
  rw [cpuWrite_frame]

theorem cpuWrite_oam (s : State) (a : Addr) (d : Byte) : (cpuWrite s a d).oam = s.oam := by
  rw [cpuWrite_frame]

/-- The four MAP rows are the CP write rows from 0x8000 up (30_encoding.md R103). -/
theorem decodeCpuWrite_mem_map {a : Addr} (d : Byte) (h : 0x8000 ≤ a.toNat) :
    decodeCpuWrite a d
      ∈ [Instr.cpuWrMapCtrl a d, .cpuWrMapChr0 a d, .cpuWrMapChr1 a d, .cpuWrMapPrg a d] := by
  obtain ha | ha | ha | ha : (0x8000 ≤ a.toNat ∧ a.toNat ≤ 0x9FFF)
      ∨ (0xA000 ≤ a.toNat ∧ a.toNat ≤ 0xBFFF) ∨ (0xC000 ≤ a.toNat ∧ a.toNat ≤ 0xDFFF)
      ∨ 0xE000 ≤ a.toNat := by omega
  · simp [decodeCpuWrite_mapCtrl d ha]
  · simp [decodeCpuWrite_mapChr0 d ha]
  · simp [decodeCpuWrite_mapChr1 d ha]
  · simp [decodeCpuWrite_mapPrg d ha]

/-! ### A CP transaction of a running block (41_mapper_access.md R150) -/

section
variable {s : State} (h : s.Running) (a : Addr) (d : Byte)
include h

theorem exec_decodeCpuRead_running :
    exec (decodeCpuRead a) s = .next { s with result := some (cpuRead s a) } := by
  obtain ha | ha | ha | ha | ha : a.toNat ≤ 0x3FFF ∨ (0x4000 ≤ a.toNat ∧ a.toNat ≤ 0x5FFF)
      ∨ (0x6000 ≤ a.toNat ∧ a.toNat ≤ 0x7FFF) ∨ (0x8000 ≤ a.toNat ∧ a.toNat ≤ 0xBFFF)
      ∨ 0xC000 ≤ a.toNat := by omega
  · rw [decodeCpuRead_unmappedLo ha, exec_cpuRdUnmappedLo_running h, cpuRead_unmapped s (by omega)]
  · rw [decodeCpuRead_unmappedHi ha, exec_cpuRdUnmappedHi_running h, cpuRead_unmapped s ha.2]
  · rw [decodeCpuRead_sram ha, exec_cpuRdSram_running h, cpuRead_sram s ha]
  · rw [decodeCpuRead_prgLo ha, exec_cpuRdPrgLo_running h, cpuRead_prgLo s ha]
  · rw [decodeCpuRead_prgHi ha, exec_cpuRdPrgHi_running h, cpuRead_prgHi s ha]

theorem exec_decodeCpuWrite_running :
    exec (decodeCpuWrite a d) s = .next { cpuWrite s a d with result := none } := by
  obtain ha | ha | ha | ha : a.toNat ≤ 0x3FFF ∨ (0x4000 ≤ a.toNat ∧ a.toNat ≤ 0x5FFF)
      ∨ (0x6000 ≤ a.toNat ∧ a.toNat ≤ 0x7FFF) ∨ 0x8000 ≤ a.toNat := by omega
  · rw [decodeCpuWrite_unmappedLo d ha, exec_cpuWrUnmappedLo_running h,
      cpuWrite_unmapped s d (by omega)]
  · rw [decodeCpuWrite_unmappedHi d ha, exec_cpuWrUnmappedHi_running h, cpuWrite_unmapped s d ha.2]
  · rw [decodeCpuWrite_sram d ha, exec_cpuWrSram_running h, cpuWrite_sram s d ha]
  · rw [exec_map (decodeCpuWrite_mem_map d ha), transact_running h, cpuWrite_mapper s d ha]; rfl

end

/-- Settles O32: on every row of the CP map the transaction is the access of CPU space, and a
CPU-space write reaches no further than PRG RAM and the mapper. -/
theorem cpuPortIsCpuSpaceAccess : Obligations.CpuPortIsCpuSpaceAccess :=
  fun a d s hrun => ⟨exec_decodeCpuRead_running hrun a, exec_decodeCpuWrite_running hrun a d,
    cpuWrite_ppu s a d, cpuWrite_oam s a d⟩

end Sys2Proof.Machine

/-! ## Family other: the encoding -/

namespace Sys2Proof

/-! ### The decoder on a packed word (30_encoding.md R102 to R105, R110) -/

section
variable (rw : Bool) (a : Addr) (d : Byte)

theorem decodeWord_packWord_register :
    decodeWord (packWord 0 rw a d) = .ok (decodeRegister rw a d) := by
  rw [decodeWord_register (by simp) (by simp)]; simp

theorem decodeWord_packWord_cpuRead :
    decodeWord (packWord 1 false a d) = .ok (decodeCpuRead a) := by
  rw [decodeWord_cpuRead (by simp) (by simp) (by simp)]; simp

theorem decodeWord_packWord_cpuWrite :
    decodeWord (packWord 1 true a d) = .ok (decodeCpuWrite a d) := by
  rw [decodeWord_cpuWrite (by simp) (by simp) (by simp)]; simp

theorem decodeWord_packWord_busRead :
    decodeWord (packWord 2 false a d) = .ok (decodeBusRead a) := by
  rw [decodeWord_busRead (by simp) (by simp) (by simp)]; simp

theorem decodeWord_packWord_busWrite :
    decodeWord (packWord 2 true a d) = .ok (decodeBusWrite a d) := by
  rw [decodeWord_busWrite (by simp) (by simp) (by simp)]; simp

theorem decodeWord_packWord_control :
    decodeWord (packWord 3 rw a d) = decodeControl rw a := by
  rw [decodeWord_control (by simp) (by simp)]; simp

end

/-! ### The register and bus rows by their ranges (R102, R104) -/

section
variable {a : Addr}

theorem decodeRegister_badIndex (rw : Bool) (d : Byte) (h : 8 ≤ a.toNat) :
    decodeRegister rw a d = .ppuBadIndex rw a d := if_pos h

theorem decodeBusRead_pal (h : a.busWithin 0x3F00 0x3FFF = true) :
    decodeBusRead a = .pbRdPal a := by
  rw [busWithin_iff] at h
  rw [decodeBusRead_eq, if_pos h.1]

theorem decodeBusRead_nt (h : a.busWithin 0x2000 0x3EFF = true) :
    decodeBusRead a = .pbRdNt a := by
  rw [busWithin_iff] at h
  rw [decodeBusRead_eq, if_neg (by omega), if_pos h.1]

theorem decodeBusRead_pat (h : a.busWithin 0x0000 0x1FFF = true) :
    decodeBusRead a = .pbRdPat a := by
  rw [busWithin_iff] at h
  rw [decodeBusRead_eq, if_neg (by omega), if_neg (by omega)]

variable (d : Byte)

theorem decodeBusWrite_pal (h : a.busWithin 0x3F00 0x3FFF = true) :
    decodeBusWrite a d = .pbWrPal a d := by
  rw [busWithin_iff] at h
  rw [decodeBusWrite_eq, if_pos h.1]

theorem decodeBusWrite_nt (h : a.busWithin 0x2000 0x3EFF = true) :
    decodeBusWrite a d = .pbWrNt a d := by
  rw [busWithin_iff] at h
  rw [decodeBusWrite_eq, if_neg (by omega), if_pos h.1]

theorem decodeBusWrite_pat (h : a.busWithin 0x0000 0x1FFF = true) :
    decodeBusWrite a d = .pbWrPat a d := by
  rw [busWithin_iff] at h
  rw [decodeBusWrite_eq, if_neg (by omega), if_neg (by omega)]

end

/-! ### Encode, then decode -/

/-- Settles O1: the word of a transaction carries its port, RW bit and operands, so the decoder
takes the map of its port, in which the range of its address operand selects its row. -/
theorem decodeOfEncodeIsTheInstruction : Obligations.DecodeOfEncodeIsTheInstruction := by
  intro i hwf
  cases i
  case ppuWrCtrl1 | ppuWrCtrl2 | ppuWrStatus | ppuWrOamAddr | ppuWrOamData | ppuWrScroll
      | ppuWrAddr | ppuWrData =>
    exact decodeWord_packWord_register true _ _
  case ppuRdCtrl1 | ppuRdCtrl2 | ppuRdStatus | ppuRdOamAddr | ppuRdOamData | ppuRdScroll
      | ppuRdAddr | ppuRdData =>
    exact decodeWord_packWord_register false _ _
  case ppuBadIndex rw idx d =>
    rw [encode, decodeWord_packWord_register,
      decodeRegister_badIndex rw d ((within_iff _ _ _).1 hwf).1]
  case cpuRdUnmappedLo a =>
    rw [encode, decodeWord_packWord_cpuRead, decodeCpuRead_unmappedLo ((within_iff _ _ _).1 hwf).2]
  case cpuRdUnmappedHi a =>
    rw [encode, decodeWord_packWord_cpuRead, decodeCpuRead_unmappedHi ((within_iff _ _ _).1 hwf)]
  case cpuRdSram a =>
    rw [encode, decodeWord_packWord_cpuRead, decodeCpuRead_sram ((within_iff _ _ _).1 hwf)]
  case cpuRdPrgLo a =>
    rw [encode, decodeWord_packWord_cpuRead, decodeCpuRead_prgLo ((within_iff _ _ _).1 hwf)]
  case cpuRdPrgHi a =>
    rw [encode, decodeWord_packWord_cpuRead, decodeCpuRead_prgHi ((within_iff _ _ _).1 hwf).1]
  case cpuWrUnmappedLo a d =>
    rw [encode, decodeWord_packWord_cpuWrite,
      decodeCpuWrite_unmappedLo d ((within_iff _ _ _).1 hwf).2]
  case cpuWrUnmappedHi a d =>
    rw [encode, decodeWord_packWord_cpuWrite, decodeCpuWrite_unmappedHi d ((within_iff _ _ _).1 hwf)]
  case cpuWrSram a d =>
    rw [encode, decodeWord_packWord_cpuWrite, decodeCpuWrite_sram d ((within_iff _ _ _).1 hwf)]
  case cpuWrMapCtrl a d =>
    rw [encode, decodeWord_packWord_cpuWrite, decodeCpuWrite_mapCtrl d ((within_iff _ _ _).1 hwf)]
  case cpuWrMapChr0 a d =>
    rw [encode, decodeWord_packWord_cpuWrite, decodeCpuWrite_mapChr0 d ((within_iff _ _ _).1 hwf)]
  case cpuWrMapChr1 a d =>
    rw [encode, decodeWord_packWord_cpuWrite, decodeCpuWrite_mapChr1 d ((within_iff _ _ _).1 hwf)]
  case cpuWrMapPrg a d =>
    rw [encode, decodeWord_packWord_cpuWrite, decodeCpuWrite_mapPrg d ((within_iff _ _ _).1 hwf).1]
  case pbRdPal a => rw [encode, decodeWord_packWord_busRead, decodeBusRead_pal hwf]
  case pbRdNt a => rw [encode, decodeWord_packWord_busRead, decodeBusRead_nt hwf]
  case pbRdPat a => rw [encode, decodeWord_packWord_busRead, decodeBusRead_pat hwf]
  case pbWrPal a d => rw [encode, decodeWord_packWord_busWrite, decodeBusWrite_pal d hwf]
  case pbWrNt a d => rw [encode, decodeWord_packWord_busWrite, decodeBusWrite_nt d hwf]
  case pbWrPat a d => rw [encode, decodeWord_packWord_busWrite, decodeBusWrite_pat d hwf]
  case tick | nmiAck => exact decodeWord_packWord_control true _ _

/-! ### Decode, then encode -/

/-- The mask of a row that ignores `DATA` clears the low 8 bits of the number. -/
theorem toNat_and_FFFFFF00 (w : TransactionWord) :
    (w &&& 0xFFFFFF00#32).toNat = w.toNat / 2 ^ 8 * 2 ^ 8 := by
  have hbits : w &&& 0xFFFFFF00#32 = (w >>> 8) <<< 8 := by
    ext i hi
    have : i < 32 := hi
    interval_cases i <;> simp
  have hw := w.isLt
  rw [hbits, BitVec.toNat_shiftLeft, BitVec.toNat_ushiftRight, Nat.shiftLeft_eq,
    Nat.shiftRight_eq_div_pow]
  omega

/-- Clearing `DATA` in a packed word packs 0 in its place. -/
theorem packWord_and_FFFFFF00 (p : BitVec 2) (rw : Bool) (a : Addr) (d : Byte) :
    packWord p rw a d &&& 0xFFFFFF00#32 = packWord p rw a 0#8 := by
  apply BitVec.eq_of_toNat_eq
  have hd := d.isLt
  rw [toNat_and_FFFFFF00, toNat_packWord, toNat_packWord, BitVec.toNat_ofNat]
  omega

/-- A transaction has the word of these fields, 0 in place of a `DATA` field it ignores. -/
def HasFields (i : Instr) (p : BitVec 2) (rw : Bool) (a : Addr) (d : Byte) : Prop :=
  encode i = packWord p rw a (if Machine.dataIgnored i then 0#8 else d)

section
variable (a : Addr) (d : Byte)

theorem decodeRegister_hasFields (rw : Bool) : HasFields (decodeRegister rw a d) 0 rw a d := by
  by_cases h : 8 ≤ a.toNat
  · rw [decodeRegister_badIndex rw d h]; rfl
  · obtain rfl | rfl | rfl | rfl | rfl | rfl | rfl | rfl := addr_eq_of_lt_eight a h <;>
      cases rw <;> rfl

theorem decodeCpuRead_hasFields : HasFields (decodeCpuRead a) 1 false a d := by
  unfold decodeCpuRead
  split_ifs <;> rfl

theorem decodeCpuWrite_hasFields : HasFields (decodeCpuWrite a d) 1 true a d := by
  unfold decodeCpuWrite
  split_ifs <;> rfl

theorem decodeBusRead_hasFields : HasFields (decodeBusRead a) 2 false a d := by
  unfold decodeBusRead
  split <;> rfl

theorem decodeBusWrite_hasFields : HasFields (decodeBusWrite a d) 2 true a d := by
  unfold decodeBusWrite
  split <;> rfl

end

/-- A decoded transaction has the fields of its word. -/
theorem decodeWord_hasFields {w : TransactionWord} {i : Instr} (h : decodeWord w = .ok i) :
    HasFields i (portField w) (rwField w) (addrField w) (dataField w) := by
  obtain ⟨-, ⟨hp, rfl⟩ | ⟨hp, hw, rfl⟩ | ⟨hp, hw, rfl⟩ | ⟨hp, hw, rfl⟩ | ⟨hp, hw, rfl⟩
    | ⟨hp, hw, ha, rfl⟩ | ⟨hp, hw, ha, rfl⟩⟩ := decodeWord_ok h
  · rw [hp]; exact decodeRegister_hasFields _ _ _
  · rw [hp, hw]; exact decodeCpuWrite_hasFields _ _
  · rw [hp, hw]; exact decodeCpuRead_hasFields _ _
  · rw [hp, hw]; exact decodeBusWrite_hasFields _ _
  · rw [hp, hw]; exact decodeBusRead_hasFields _ _
  · rw [hp, hw, ha]; rfl
  · rw [hp, hw, ha]; rfl

/-- Settles O2: the decoded transaction has the fields of its word, which with no reserved bit set
is the word they make; a row that ignores `DATA` packs 0 there, as the mask does. -/
theorem encodeOfDecodeIsTheWord : Obligations.EncodeOfDecodeIsTheWord := by
  intro w i h
  have hpack := packWord_fields w (decodeWord_ok h).1
  rw [decodeWord_hasFields h]
  split_ifs
  · rw [← packWord_and_FFFFFF00 _ _ _ (dataField w), hpack]
  · exact hpack

end Sys2Proof

namespace Sys2Proof

/-! ### The opcode table (R102 to R107) -/

/-- Two words with the same fields are equal. -/
theorem word_ext {w u : TransactionWord} (hp : portField w = portField u)
    (hw : rwField w = rwField u) (hr : rsvField w = rsvField u) (ha : addrField w = addrField u)
    (hd : dataField w = dataField u) : w = u := by
  have hwl := w.isLt
  have hul := u.isLt
  have hw' := congrArg Bool.toNat hw
  simp only [toNat_rwField] at hw'
  simp only [portField, rsvField, addrField, dataField, ← BitVec.toNat_inj,
    BitVec.extractLsb'_toNat, Nat.shiftRight_eq_div_pow] at hp hr ha hd
  apply BitVec.eq_of_toNat_eq
  omega

/-- A packed word fits a mask and a match exactly when each of its fields does. -/
theorem packWord_and_eq_iff (p : BitVec 2) (rw : Bool) (a : Addr) (d : Byte)
    (mask fit : TransactionWord) :
    packWord p rw a d &&& mask = fit ↔
      p &&& mask.extractLsb' 30 2 = fit.extractLsb' 30 2
      ∧ (rw && mask.getLsbD 29) = fit.getLsbD 29
      ∧ 0#5 &&& mask.extractLsb' 24 5 = fit.extractLsb' 24 5
      ∧ a &&& mask.extractLsb' 8 16 = fit.extractLsb' 8 16
      ∧ d &&& mask.extractLsb' 0 8 = fit.extractLsb' 0 8 := by
  have hp : (packWord p rw a d &&& mask).extractLsb' 30 2 = p &&& mask.extractLsb' 30 2 := by
    rw [BitVec.extractLsb'_and, ← portField, portField_packWord]
  have hw : (packWord p rw a d &&& mask).getLsbD 29 = (rw && mask.getLsbD 29) := by
    rw [BitVec.getLsbD_and, ← rwField, rwField_packWord]
  have hr : (packWord p rw a d &&& mask).extractLsb' 24 5 = 0#5 &&& mask.extractLsb' 24 5 := by
    rw [BitVec.extractLsb'_and, ← rsvField, rsvField_packWord]
  have ha : (packWord p rw a d &&& mask).extractLsb' 8 16 = a &&& mask.extractLsb' 8 16 := by
    rw [BitVec.extractLsb'_and, ← addrField, addrField_packWord]
  have hd : (packWord p rw a d &&& mask).extractLsb' 0 8 = d &&& mask.extractLsb' 0 8 := by
    rw [BitVec.extractLsb'_and, ← dataField, dataField_packWord]
  rw [← hp, ← hw, ← hr, ← ha, ← hd]
  exact ⟨by rintro rfl; exact ⟨rfl, rfl, rfl, rfl, rfl⟩,
    fun ⟨h1, h2, h3, h4, h5⟩ => word_ext h1 h2 h3 h4 h5⟩

/-! The address masks of the table -/

theorem and_FFFF (a : Addr) : a &&& 0xFFFF#16 = a := BitVec.and_allOnes

theorem and_C000_eq_iff (a c : Addr) :
    a &&& 0xC000#16 = c ↔ a.toNat / 2 ^ 14 * 2 ^ 14 = c.toNat := by
  have hbits : a &&& 0xC000#16 = (a >>> 14) <<< 14 := by
    ext i hi
    have : i < 16 := hi
    interval_cases i <;> simp
  have ha := a.isLt
  rw [← BitVec.toNat_inj, hbits, BitVec.toNat_shiftLeft, BitVec.toNat_ushiftRight,
    Nat.shiftLeft_eq, Nat.shiftRight_eq_div_pow]
  omega

theorem and_E000_eq_iff (a c : Addr) :
    a &&& 0xE000#16 = c ↔ a.toNat / 2 ^ 13 * 2 ^ 13 = c.toNat := by
  have hbits : a &&& 0xE000#16 = (a >>> 13) <<< 13 := by
    ext i hi
    have : i < 16 := hi
    interval_cases i <;> simp
  have ha := a.isLt
  rw [← BitVec.toNat_inj, hbits, BitVec.toNat_shiftLeft, BitVec.toNat_ushiftRight,
    Nat.shiftLeft_eq, Nat.shiftRight_eq_div_pow]
  omega

/-- The pattern mask of R104 as a range. -/
theorem and_2000_eq_zero_iff (a : Addr) : a &&& 0x2000#16 = 0#16 ↔ a.toNat % 2 ^ 14 < 0x2000 := by
  rw [← BitVec.toNat_inj, BitVec.toNat_and, show (0x2000#16).toNat = 2 ^ 13 from rfl,
    Nat.and_two_pow, Nat.testBit_eq_decide_div_mod_eq]
  by_cases h : a.toNat / 2 ^ 13 % 2 = 1
  · simp; omega
  · have h0 : a.toNat / 2 ^ 13 % 2 = 0 := by omega
    simp; omega

/-! The first row of a packed word, map by map -/

section
open Machine
variable (rw : Bool) (a : Addr) (d : Byte)

theorem firstRow_register :
    firstRow (packWord 0 rw a d) = some (rowIndex (decodeRegister rw a d)) := by
  by_cases h : 8 ≤ a.toNat
  · have hne : a ≠ 0#16 ∧ a ≠ 1#16 ∧ a ≠ 2#16 ∧ a ≠ 3#16 ∧ a ≠ 4#16 ∧ a ≠ 5#16 ∧ a ≠ 6#16
        ∧ a ≠ 7#16 := by
      refine ⟨?_, ?_, ?_, ?_, ?_, ?_, ?_, ?_⟩ <;> (rintro rfl; exact absurd h (by decide))
    rw [decodeRegister_badIndex rw d h]
    simp [firstRow, opcodeRows, List.findIdx?_cons, packWord_and_eq_iff, and_FFFF, rowIndex, hne]
  · obtain rfl | rfl | rfl | rfl | rfl | rfl | rfl | rfl := addr_eq_of_lt_eight a h <;>
      cases rw <;>
      simp [firstRow, opcodeRows, List.findIdx?_cons, packWord_and_eq_iff, decodeRegister,
        registerWrite, registerRead, rowIndex]

/-! In the next four the table's masks leave pages of the address and the decoder ranges; the two
chains of conditions are compared case by case. -/

theorem firstRow_cpuRead :
    firstRow (packWord 1 false a d) = some (rowIndex (decodeCpuRead a)) := by
  have ha := a.isLt
  simp [firstRow, opcodeRows, List.findIdx?_cons, packWord_and_eq_iff, and_C000_eq_iff,
    and_E000_eq_iff, decodeCpuRead]
  split_ifs
  all_goals simp [rowIndex]
  all_goals omega

theorem firstRow_cpuWrite :
    firstRow (packWord 1 true a d) = some (rowIndex (decodeCpuWrite a d)) := by
  have ha := a.isLt
  simp [firstRow, opcodeRows, List.findIdx?_cons, packWord_and_eq_iff, and_C000_eq_iff,
    and_E000_eq_iff, decodeCpuWrite]
  split_ifs
  all_goals simp [rowIndex]
  all_goals omega

theorem firstRow_busRead :
    firstRow (packWord 2 false a d) = some (rowIndex (decodeBusRead a)) := by
  simp [firstRow, opcodeRows, List.findIdx?_cons, packWord_and_eq_iff,
    and_3F00_eq_iff, and_2000_eq_iff, and_2000_eq_zero_iff, decodeBusRead_eq]
  split_ifs
  all_goals simp [rowIndex]
  all_goals omega

theorem firstRow_busWrite :
    firstRow (packWord 2 true a d) = some (rowIndex (decodeBusWrite a d)) := by
  simp [firstRow, opcodeRows, List.findIdx?_cons, packWord_and_eq_iff,
    and_3F00_eq_iff, and_2000_eq_iff, and_2000_eq_zero_iff, decodeBusWrite_eq]
  split_ifs
  all_goals simp [rowIndex]
  all_goals omega

theorem firstRow_control : firstRow (packWord 3 rw a d) = match decodeControl rw a with
    | .ok i => some (rowIndex i)
    | .error _ => none := by
  simp [firstRow, opcodeRows, List.findIdx?_cons, packWord_and_eq_iff, and_FFFF, decodeControl]
  split_ifs <;> simp_all [rowIndex]

/-- Every mask of the table holds the reserved bits, and every match has them 0. -/
theorem firstRow_reserved {w : TransactionWord} (h : rsvField w ≠ 0#5) : firstRow w = none := by
  have hrows : ∀ r ∈ opcodeRows, rsvField r.1 = 31#5 ∧ rsvField r.2 = 0#5 := by
    simp [opcodeRows, rsvField]
  refine List.findIdx?_eq_none_iff.2 (fun r hr => ?_)
  obtain ⟨hmask, hfit⟩ := hrows r hr
  rw [beq_eq_false_iff_ne]
  intro hw
  have hand : rsvField w &&& rsvField r.1 = rsvField r.2 := by
    rw [← hw]; exact BitVec.extractLsb'_and.symm
  rw [hmask, hfit] at hand
  exact h ((BitVec.and_allOnes (x := rsvField w)).symm.trans hand)

end

/-- A 2-bit field has four values. -/
theorem twoBit_cases (p : BitVec 2) : p = 0 ∨ p = 1 ∨ p = 2 ∨ p = 3 := by
  revert p; decide

/-- Settles O5: a word with a reserved bit fits no row; any other is packed of its fields, and the
rows of its port cut the operands as the decoder's map does. -/
theorem opcodeTableDecidesDecoder : Obligations.OpcodeTableDecidesDecoder := by
  intro w
  by_cases hr : rsvField w = 0#5
  · rw [← packWord_fields w hr]
    obtain hp | hp | hp | hp := twoBit_cases (portField w) <;> rw [hp]
    · rw [decodeWord_packWord_register]
      exact firstRow_register _ _ _
    · cases rwField w
      · rw [decodeWord_packWord_cpuRead]
        exact firstRow_cpuRead _ _
      · rw [decodeWord_packWord_cpuWrite]
        exact firstRow_cpuWrite _ _
    · cases rwField w
      · rw [decodeWord_packWord_busRead]
        exact firstRow_busRead _ _
      · rw [decodeWord_packWord_busWrite]
        exact firstRow_busWrite _ _
    · rw [decodeWord_packWord_control]
      exact firstRow_control _ _ _
  · rw [firstRow_reserved hr, decodeWord, if_pos hr]

/-- Settles O3: the decoder, run on each of the eight words. -/
theorem specExampleWordsDecode : Obligations.SpecExampleWordsDecode :=
  ⟨rfl, rfl, rfl, rfl, rfl, rfl, rfl, rfl⟩

end Sys2Proof

/-! ## Family other: construction -/

namespace Sys2Proof.Machine

/-- No check fails exactly when the loader meets every condition of 60_exceptions.md R252. -/
theorem failedChecks_eq_nil_iff (l : Loader) : failedChecks l = [] ↔
    l.prgRamUnits ≤ 1 ∧ (∀ b ∈ l.prg, b.size = 16384) ∧ (∀ b ∈ l.chr, b.size = 8192)
    ∧ (l.variant = .noMapper → l.chr.length ≤ 1
        ∧ (l.mirroring = .horizontal ∨ l.mirroring = .vertical))
    ∧ (l.variant = .mmc1 → l.prg ≠ []) := by
  simp only [failedChecks, List.append_eq_nil_iff, and_assoc]
  refine and_congr (by simp) (and_congr (by simp) (and_congr (by simp) ?_))
  cases l.variant
  · cases l.mirroring <;> simp
  · simp

theorem construct_fault_of_nil (p : Params) {l : Loader} (r : RamInit)
    (h : failedChecks l = []) : (construct p l r).fault = none := if_pos h

theorem construct_fault_of_ne_nil (p : Params) {l : Loader} (r : RamInit)
    (h : failedChecks l ≠ []) :
    (construct p l r).fault = some (.configInvalid (failedChecks l)) := if_neg h

/-- Settles O8: the six clauses negate the conditions under which no check fails. -/
theorem constructionHaltsOnFailedChecks : Obligations.ConstructionHaltsOnFailedChecks := by
  intro p l r bad
  have hbad : bad ↔ failedChecks l ≠ [] := by
    rw [Ne, failedChecks_eq_nil_iff, not_and_or, not_and_or, not_and_or, not_and_or]
    refine or_congr (by omega) (or_congr (by simp) (or_congr (by simp) ?_))
    cases l.variant
    · simp [imp_iff_not_or]
    · simp
  rw [hbad, not_not]
  exact ⟨fun h => ⟨_, h, construct_fault_of_ne_nil p r h⟩, construct_fault_of_nil p r⟩

/-- Settles O7: each field is read off the construction, the mapper's from its variant and flag. -/
theorem constructionResetValues : Obligations.ConstructionResetValues := by
  intro p l r
  refine ⟨rfl, rfl, rfl, rfl, fun hc => ?_, fun hu => if_pos hu, rfl, rfl, rfl, rfl, rfl, rfl,
    fun hv hm => ?_, fun hv hm => ?_, fun hv hm => ?_, fun hv hm => ?_⟩
  · exact if_pos (by rw [hc]; rfl)
  all_goals simp [construct, mapperReset, controlResetMir, hv, hm]

/-- A constructed mapper has an empty serial port. -/
theorem mapperWf_mapperReset (l : Loader) : mapperWf (mapperReset l) = true := by
  unfold mapperReset
  split <;> rfl

/-- A construction no check refuses shows a configuration in order. -/
theorem configWf_construct (p : Params) {l : Loader} (r : RamInit) (h : failedChecks l = []) :
    configWf (construct p l r) = true := by
  obtain ⟨hu, hprg, hchr, hnm, hmmc1⟩ := (failedChecks_eq_nil_iff l).1 h
  have hmapper : (match mapperReset l with
      | .noMapper _ => decide (l.chr.length ≤ 1)
      | .mmc1 _ => decide (l.prg.length ≠ 0)) = true := by
    cases hv : l.variant
    · simpa [mapperReset, hv] using (hnm hv).1
    · simpa [mapperReset, hv] using hmmc1 hv
  simp only [configWf, Bool.and_eq_true]
  exact ⟨⟨⟨decide_eq_true hu, by simpa [construct] using hprg⟩, by simpa [construct] using hchr⟩,
    hmapper⟩

/-- The RAM a construction takes is in canonical form, a RAM that is not present being empty. -/
theorem memoriesWf_construct (p : Params) {l : Loader} {r : RamInit} (h : inputsWf l r = true) :
    memoriesWf (construct p l r) = true := by
  simp only [inputsWf, Bool.and_eq_true] at h
  obtain ⟨⟨⟨⟨⟨⟨hoam, hnt⟩, hpal⟩, hchrRam⟩, hprgRam⟩, hprg⟩, hchr⟩ := h
  simp only [memoriesWf, construct, Bool.and_eq_true]
  refine ⟨⟨⟨⟨⟨⟨hoam, hnt⟩, hpal⟩, ?_⟩, ?_⟩, hprg⟩, hchr⟩
  · split_ifs
    · exact hchrRam
    · exact wf_nil _
  · split_ifs
    · exact hprgRam
    · exact wf_nil _

/-- Settles O10: the memories are the inputs', the serial port is empty, and the configuration is in
order unless a check failed, which is then the fault. -/
theorem constructionMeetsTheInvariant : Obligations.ConstructionMeetsTheInvariant := by
  intro p l r h
  simp only [State.wf, Bool.and_eq_true, Bool.or_eq_true]
  refine ⟨⟨⟨memoriesWf_construct p h, mapperWf_mapperReset l⟩, ?_⟩, ?_⟩
  · by_cases hf : failedChecks l = []
    · rw [construct_fault_of_nil p r hf]; rfl
    · rw [construct_fault_of_ne_nil p r hf]; exact decide_eq_true hf
  · by_cases hf : failedChecks l = []
    · exact .inl (configWf_construct p r hf)
    · rw [construct_fault_of_ne_nil p r hf]; exact .inr rfl

/-- Settles O9: the reset state is the construction of the reset loader, whose checks pass. -/
theorem resetStateMeetsTheInvariant : Obligations.ResetStateMeetsTheInvariant := by
  have hconstruct : State.reset = construct Config.defaultParams resetLoader resetRam := by decide
  exact ⟨hconstruct, hconstruct ▸ constructionMeetsTheInvariant _ _ _ (by decide), rfl⟩

end Sys2Proof.Machine

/-! ## Family other: what a transaction can do -/

namespace Sys2Proof.Machine

/-! ### The effect of a transaction on a running block, said once -/

/-- A register access leaves what only the flags' and the counter's own writers change (10_state.md
R25, R35 to R37). -/
structure KeepsStatus (p q : Ppu) : Prop where
  vblank : q.vblank = p.vblank
  s0hit : q.s0hit = p.s0hit
  overflow : q.overflow = p.overflow
  cyc : q.cyc = p.cyc
  nmi : q.nmi = p.nmi
  events : q.events = p.events

/-- What a transaction can make of a running block `s`, its result aside. -/
inductive Effect (s : State) : Instr → State → Prop where
  | halt (i : Instr) (r : Fault) (hr : haltReason i = some r) : Effect s i (s.setFault (some r))
  | quiet (i : Instr) (hr : haltReason i = none) : Effect s i s
  | register (i : Instr) (p : Ppu) (hport : portOf i = 0#2) (hr : haltReason i = none)
      (hp : KeepsStatus s.ppu p) : Effect s i (s.setPpu p)
  | statusRead : Effect s .ppuRdStatus (s.setPpu (afterStatusRead s.ppu))
  | oamData (d : Byte) : Effect s (.ppuWrOamData d)
      ((s.setOam (cellWrite s.oam s.ppu.oamAddr.toNat d)).setPpu
        { s.ppu with oamAddr := s.ppu.oamAddr + 1#8 })
  | vramData (d : Byte) : Effect s (.ppuWrData d)
      ((ppuWrite s (vramBusAddr s.ppu.v) d).setPpu (stepV s.ppu))
  | sram (a : Addr) (d : Byte) : Effect s (.cpuWrSram a d) (sramWrite s a d)
  | map (i : Instr) (a : Addr) (d : Byte)
      (hi : i ∈ [Instr.cpuWrMapCtrl a d, .cpuWrMapChr0 a d, .cpuWrMapChr1 a d, .cpuWrMapPrg a d]) :
      Effect s i (mapperWrite s a d)
  | bus (i : Instr) (l : PpuLoc) (d : Byte) (hport : portOf i = 2#2) (hr : haltReason i = none)
      (hl : i.wf = true → l.inside) : Effect s i (writeLoc s l d)
  | tick : Effect s .tick (tickEffect s)
  | nmiAck : Effect s .nmiAck (s.setPpu (nmiCleared s.ppu))

/-- Every meaning is an effect inside one of the two frames of a transaction (30_encoding.md R100). -/
theorem exec_frame (i : Instr) : (∃ f, ∀ s, exec i s = transact f s)
    ∨ (∃ f, ∀ s, exec i s = transactRead f s) := by
  cases i
  case ppuRdStatus | ppuRdData | cpuRdUnmappedLo | cpuRdUnmappedHi | cpuRdSram | cpuRdPrgLo
      | cpuRdPrgHi | pbRdPal | pbRdNt | pbRdPat =>
    exact .inr ⟨_, fun _ => rfl⟩
  all_goals exact .inl ⟨_, fun _ => rfl⟩

/-- In a halted block no transaction does anything (60_exceptions.md R250). -/
theorem exec_halted (i : Instr) {s : State} {r : Fault} (h : s.fault = some r) :
    exec i s = .next (s.setResult none) := by
  obtain ⟨f, hf⟩ | ⟨f, hf⟩ := exec_frame i
  · rw [hf, transact_halted h]
  · rw [hf, transactRead_halted h]

/-- Settles O13: the frame of every transaction takes no effect in a halted block. -/
theorem haltedBlockTakesNoEffect : Obligations.HaltedBlockTakesNoEffect :=
  fun i _ _ h => exec_halted i h

/-- A transaction with a halt reason raises it and does nothing else (R253, R254). -/
theorem exec_running_of_haltReason {i : Instr} {r : Fault} (hr : haltReason i = some r) {s : State}
    (h : s.Running) : exec i s = .next { s with fault := some r, result := none } := by
  have hraise : exec i s = transact (raiseFault r) s := by
    cases i
    case ppuRdCtrl1 | ppuRdCtrl2 | ppuRdOamAddr | ppuRdOamData | ppuRdScroll | ppuRdAddr
        | ppuBadIndex =>
      cases hr
      rfl
    all_goals cases hr
  rw [hraise, transact_running h]
  rfl

/-- Settles O23: the six registers' reads have their index as reason. -/
theorem writeOnlyRegisterReadsHalt : Obligations.WriteOnlyRegisterReadsHalt :=
  fun _ hrun => ⟨exec_running_of_haltReason rfl hrun, exec_running_of_haltReason rfl hrun,
    exec_running_of_haltReason rfl hrun, exec_running_of_haltReason rfl hrun,
    exec_running_of_haltReason rfl hrun, exec_running_of_haltReason rfl hrun⟩

/-- Settles O24: the access has its index as reason. -/
theorem badRegisterIndexHalts : Obligations.BadRegisterIndexHalts :=
  fun _ _ _ _ hrun => exec_running_of_haltReason rfl hrun

theorem toNat_busAddr_lt {a : Addr} (h : a.busWithin 0x0000 0x1FFF = true) :
    (busAddr a).toNat < 0x2000 := by
  rw [busWithin_iff] at h
  rw [busAddr, toNat_and_3FFF]
  omega

theorem exec_running_of_transact {i : Instr} {f : State → State}
    (hf : ∀ s, exec i s = transact f s) {s : State} (h : s.Running) :
    exec i s = .next ((f s).setResult none) := by
  rw [hf, transact_running h]

theorem exec_running_of_transactRead {i : Instr} {f : State → Byte × State}
    (hf : ∀ s, exec i s = transactRead f s) {s : State} (h : s.Running) :
    exec i s = .next ((f s).2.setResult (some (f s).1)) := by
  rw [hf, transactRead_running h]

/-- A transaction on a running block answers a state, reached by its effect. -/
theorem exec_effect (i : Instr) {s : State} (h : s.Running) :
    ∃ t r, Effect s i t ∧ exec i s = .next (t.setResult r) := by
  cases i
  case cpuRdUnmappedLo | cpuRdUnmappedHi | cpuRdSram | cpuRdPrgLo | cpuRdPrgHi | pbRdPal | pbRdNt
      | pbRdPat =>
    refine ⟨_, _, ?_, exec_running_of_transactRead (fun _ => rfl) h⟩
    exact .quiet _ rfl
  case ppuRdStatus =>
    refine ⟨_, _, ?_, exec_running_of_transactRead (fun _ => rfl) h⟩
    exact .statusRead
  case ppuRdData =>
    refine ⟨_, _, ?_, exec_running_of_transactRead (fun _ => rfl) h⟩
    exact .register _ _ (portField_packWord _ _ _ _) rfl ⟨rfl, rfl, rfl, rfl, rfl, rfl⟩
  all_goals refine ⟨_, _, ?_, exec_running_of_transact (fun _ => rfl) h⟩
  case ppuWrStatus | cpuWrUnmappedLo | cpuWrUnmappedHi => exact .quiet _ rfl
  case ppuRdCtrl1 | ppuRdCtrl2 | ppuRdOamAddr | ppuRdOamData | ppuRdScroll | ppuRdAddr
      | ppuBadIndex =>
    exact .halt _ _ rfl
  case ppuWrCtrl1 | ppuWrCtrl2 | ppuWrOamAddr =>
    exact .register _ _ (portField_packWord _ _ _ _) rfl ⟨rfl, rfl, rfl, rfl, rfl, rfl⟩
  case ppuWrScroll | ppuWrAddr =>
    dsimp only
    split_ifs <;>
      exact .register _ _ (portField_packWord _ _ _ _) rfl ⟨rfl, rfl, rfl, rfl, rfl, rfl⟩
  case ppuWrOamData d => exact .oamData d
  case ppuWrData d => exact .vramData d
  case cpuWrSram a d => exact .sram a d
  case cpuWrMapCtrl a d | cpuWrMapChr0 a d | cpuWrMapChr1 a d | cpuWrMapPrg a d =>
    exact .map _ a d (by simp)
  case pbWrPal a d =>
    exact .bus _ _ d (portField_packWord _ _ _ _) rfl fun _ => palLocate_inside _
  case pbWrNt a d =>
    exact .bus _ _ d (portField_packWord _ _ _ _) rfl fun _ => ntLocate_inside _ _
  case pbWrPat a d =>
    exact .bus _ _ d (portField_packWord _ _ _ _) rfl
      fun hwf => chrLocate_inside _ _ (toNat_busAddr_lt hwf)
  case tick => exact .tick
  case nmiAck => exact .nmiAck

/-- Everything a transaction that answers a state can be. -/
theorem exec_cases {i : Instr} {s u : State} (h : exec i s = .next u) :
    (s.fault ≠ none ∧ u = s.setResult none)
    ∨ (s.Running ∧ ∃ t r, Effect s i t ∧ u = t.setResult r) := by
  cases hf : s.fault with
  | some f =>
    rw [exec_halted i hf] at h
    cases h
    exact .inl ⟨by simp, rfl⟩
  | none =>
    obtain ⟨t, r, he, ht⟩ := exec_effect i (s := s) hf
    rw [ht] at h
    cases h
    exact .inr ⟨hf, t, r, he, rfl⟩

/-! ### What every effect keeps -/

/-- The parts no transaction writes. -/
structure KeepsRom (s t : State) : Prop where
  prg : t.prg = s.prg
  chr : t.chr = s.chr
  prgRamUnits : t.prgRamUnits = s.prgRamUnits
  params : t.params = s.params
  pending : t.pending = s.pending

theorem Effect.keepsRom {i : Instr} {s t : State} (h : Effect s i t) : KeepsRom s t := by
  cases h with
  | vramData d =>
    rw [ppuWrite, writeLoc_frame]
    exact ⟨rfl, rfl, rfl, rfl, rfl⟩
  | sram a d =>
    rw [sramWrite_frame]
    exact ⟨rfl, rfl, rfl, rfl, rfl⟩
  | map i a d =>
    rw [mapperWrite_frame]
    exact ⟨rfl, rfl, rfl, rfl, rfl⟩
  | bus i l d =>
    rw [writeLoc_frame]
    exact ⟨rfl, rfl, rfl, rfl, rfl⟩
  | tick =>
    rw [tickEffect_frame]
    exact ⟨rfl, rfl, rfl, rfl, rfl⟩
  | halt | quiet | register | statusRead | oamData | nmiAck => exact ⟨rfl, rfl, rfl, rfl, rfl⟩

/-- Settles O15: a halted block keeps everything, and no effect writes these parts. -/
theorem everyTransactionAnswersAndKeepsRom : Obligations.EveryTransactionAnswersAndKeepsRom := by
  intro i s
  cases hf : s.fault with
  | some r => exact ⟨_, exec_halted i hf, rfl, rfl, rfl, rfl, rfl⟩
  | none =>
    obtain ⟨t, r, he, ht⟩ := exec_effect i (s := s) hf
    have hk := he.keepsRom
    exact ⟨_, ht, hk.prg, hk.chr, hk.prgRamUnits, hk.params, hk.pending⟩

/-- A transaction without a halt reason leaves the fault state. -/
theorem Effect.keepsFault {i : Instr} {s t : State} (h : Effect s i t) (hr : haltReason i = none) :
    t.fault = s.fault := by
  cases h with
  | halt i r hr' => rw [hr'] at hr; cases hr
  | vramData d => rw [ppuWrite, writeLoc_frame]; rfl
  | sram a d => rw [sramWrite_frame]
  | map i a d => rw [mapperWrite_frame]
  | bus i l d => rw [writeLoc_frame]
  | tick => rw [tickEffect_frame]; rfl
  | quiet | register | statusRead | oamData | nmiAck => rfl

/-- Settles O16: the transaction has a halt reason, which it raises, or its effect leaves the block
running. -/
theorem runningBlockHaltsExactlyOnFaults : Obligations.RunningBlockHaltsExactlyOnFaults := by
  intro i s hrun
  cases hr : haltReason i with
  | some r => exact ⟨_, exec_running_of_haltReason hr hrun, rfl, fun _ => rfl⟩
  | none =>
    obtain ⟨t, r, he, ht⟩ := exec_effect i hrun
    exact ⟨_, ht, (he.keepsFault hr).trans hrun, fun h => absurd rfl h⟩

/-! ### Steps and runs -/

theorem step_decoded {w : TransactionWord} {i : Instr} (hd : decodeWord w = .ok i) {s : State}
    {rest : List TransactionWord} (hp : s.pending = w :: rest) :
    step s = exec i { s with pending := rest } := by
  simp only [step, fetchWord, hp, hd]
  rfl

/-- Settles O12: the queue's head is decoded, and the decoder gives well-formed transactions. -/
theorem stepRunsTheDecodedTransaction : Obligations.StepRunsTheDecodedTransaction :=
  fun _ => ⟨step_idle, fun _ _ _ hp hd => ⟨decodeWord_wf hd, step_decoded hd hp⟩⟩

/-- A word that decodes makes a step answer a state, in every block. -/
theorem step_next_of_decodes {w : TransactionWord} {i : Instr} (hd : decodeWord w = .ok i)
    {s : State} {rest : List TransactionWord} (hp : s.pending = w :: rest) :
    ∃ t, step s = .next t := by
  obtain ⟨t, ht, -⟩ := everyTransactionAnswersAndKeepsRom i { s with pending := rest }
  exact ⟨t, by rw [step_decoded hd hp, ht]⟩

/-- Settles O6: each clause of R106 sends its words to a reject, and outside them every port has a
map. -/
theorem invalidWordsAreRefused : Obligations.InvalidWordsAreRefused := by
  intro w invalid
  have hrefuse : (∃ e, decodeWord w = .error e) → ∃ e, decodeWord w = .error e
      ∧ ∀ s rest, s.pending = w :: rest → step s = .refused (.invalidWord w e) :=
    fun ⟨e, he⟩ => ⟨e, he, fun _ _ hp => step_refused hp he⟩
  have hanswer : (∃ i, decodeWord w = .ok i) → ∃ i, decodeWord w = .ok i
      ∧ ∀ s rest, s.pending = w :: rest → ∃ t, step s = .next t :=
    fun ⟨i, hi⟩ => ⟨i, hi, fun _ _ hp => step_next_of_decodes hi hp⟩
  refine ⟨fun hbad => hrefuse ?_, fun hgood => hanswer ?_⟩
  · by_cases hr : rsvField w = 0#5
    · obtain h | ⟨hp, hw⟩ | ⟨hp, h0, h1⟩ := hbad
      · exact absurd hr h
      · exact ⟨_, by rw [decodeWord_control hr hp, decodeControl, if_pos hw]⟩
      · rw [decodeWord_control hr hp, decodeControl, if_neg h0, if_neg h1]
        split_ifs <;> exact ⟨_, rfl⟩
    · exact ⟨_, if_pos hr⟩
  · simp only [invalid, not_or, not_and, not_not] at hgood
    obtain ⟨hr, hrw, haddr⟩ := hgood
    obtain hp | hp | hp | hp := twoBit_cases (portField w)
    · exact ⟨_, decodeWord_register hr hp⟩
    · cases hw : rwField w
      · exact ⟨_, decodeWord_cpuRead hr hp hw⟩
      · exact ⟨_, decodeWord_cpuWrite hr hp hw⟩
    · cases hw : rwField w
      · exact ⟨_, decodeWord_busRead hr hp hw⟩
      · exact ⟨_, decodeWord_busWrite hr hp hw⟩
    · rw [decodeWord_control hr hp, decodeControl, if_neg (hrw hp)]
      by_cases h0 : addrField w = 0#16
      · exact ⟨_, if_pos h0⟩
      · rw [if_neg h0, if_pos (haddr hp h0)]
        exact ⟨_, rfl⟩

/-- A step from a halted block changes nothing but the queue and the result. -/
theorem step_halted {s t : State} {r : Fault} (h : s.fault = some r) (hs : step s = .next t) :
    t = { s with pending := t.pending, result := t.result } := by
  obtain ⟨-, rfl⟩ | ⟨w, rest, i, -, -, he⟩ := step_cases hs
  · rfl
  · rw [exec_halted i (s := s.setPending rest) h] at he
    cases he
    rfl

/-- Settles O14, by induction on the length of the run: each step leaves the block halted. -/
theorem haltedBlockStaysHaltedOverRuns : Obligations.HaltedBlockStaysHaltedOverRuns := by
  intro n
  induction n with
  | zero =>
    intro s t r _ hrun
    cases hrun
    rfl
  | succ n ih =>
    intro s t r h hrun
    obtain ⟨s', hs, hrest⟩ := blockRun_succ_iff.1 hrun
    have hs' := step_halted h hs
    rw [ih s' t r (by rw [hs']; exact h) hrest, hs']

/-! ### The invariant -/

/-- Of a running block the invariant says that its memories, its serial port and its configuration
are in order. -/
theorem wf_running_iff {s : State} (h : s.Running) : s.wf = true ↔
    memoriesWf s = true ∧ mapperWf s.mapper = true ∧ configWf s = true := by
  have hf : s.fault = none := h
  simp [State.wf, hf, faultWf, constructionFailed, and_assoc]

theorem wf_of_running {s : State} (h : s.Running) (hmem : memoriesWf s = true)
    (hmap : mapperWf s.mapper = true) (hconf : configWf s = true) : s.wf = true :=
  (wf_running_iff h).2 ⟨hmem, hmap, hconf⟩

/-- A transaction's halt reason is one a rule gives, its index being in its row's range. -/
theorem faultWf_haltReason {i : Instr} (h : i.wf = true) : faultWf (haltReason i) = true := by
  cases i
  case ppuBadIndex rw idx d => exact decide_eq_true ((within_iff _ _ _).1 h).1
  all_goals rfl

theorem memoriesWf_sramWrite {s : State} (h : memoriesWf s = true) {a : Addr}
    (ha : a.within 0x6000 0x7FFF = true) (d : Byte) : memoriesWf (sramWrite s a d) = true := by
  rw [within_iff] at ha
  by_cases hu : s.prgRamUnits = 1
  · rw [sramWrite_present a d hu]
    simp only [memoriesWf, Bool.and_eq_true] at h ⊢
    obtain ⟨⟨⟨hrest, hprgRam⟩, hprg⟩, hchr⟩ := h
    exact ⟨⟨⟨hrest, wf_cellWrite hprgRam (show a.toNat - 0x6000 < 8192 by omega) d⟩, hprg⟩, hchr⟩
  · rwa [sramWrite_absent a d hu]

theorem configWf_mapperWrite (s : State) (a : Addr) (d : Byte) :
    configWf (mapperWrite s a d) = configWf s := by
  cases hm : s.mapper with
  | noMapper mir => rw [mapperWrite_noMapper a d hm]
  | mmc1 m =>
    rw [mapperWrite_mmc1 a d hm]
    simp only [configWf, hm]
    rfl

/-- An effect of a well-formed transaction on a running block keeps the invariant. -/
theorem Effect.wf {i : Instr} {s t : State} (h : Effect s i t) (hrun : s.Running)
    (hi : i.wf = true) (hs : s.wf = true) : t.wf = true := by
  obtain ⟨hmem, hmap, hconf⟩ := (wf_running_iff hrun).1 hs
  cases h with
  | halt i r hr =>
    have hfault := faultWf_haltReason hi
    rw [hr] at hfault
    simp only [State.wf, Bool.and_eq_true, Bool.or_eq_true]
    exact ⟨⟨⟨hmem, hmap⟩, hfault⟩, .inl hconf⟩
  | quiet | register | statusRead | nmiAck => exact hs
  | oamData d =>
    refine wf_of_running hrun ?_ hmap hconf
    simp only [memoriesWf, Bool.and_eq_true] at hmem ⊢
    obtain ⟨⟨⟨⟨⟨⟨hoam, hnt⟩, hpal⟩, hchrRam⟩, hprgRam⟩, hprg⟩, hchr⟩ := hmem
    exact ⟨⟨⟨⟨⟨⟨wf_cellWrite hoam s.ppu.oamAddr.isLt d, hnt⟩, hpal⟩, hchrRam⟩, hprgRam⟩, hprg⟩,
      hchr⟩
  | vramData d =>
    have hw := memoriesWf_writeLoc hmem (ppuLocate_inside s (vramBusAddr s.ppu.v)) d
    rw [ppuWrite]
    rw [writeLoc_frame] at hw ⊢
    exact wf_of_running hrun hw hmap hconf
  | sram a d =>
    have hw := memoriesWf_sramWrite hmem hi d
    rw [sramWrite_frame] at hw ⊢
    exact wf_of_running hrun hw hmap hconf
  | map i a d =>
    have hw := mapperWf_mapperWrite hmap a d
    have hc := configWf_mapperWrite s a d
    rw [mapperWrite_frame] at hw hc ⊢
    exact wf_of_running hrun hmem hw (hc.trans hconf)
  | bus i l d hport hr hl =>
    have hw := memoriesWf_writeLoc hmem (hl hi) d
    rw [writeLoc_frame] at hw ⊢
    exact wf_of_running hrun hw hmap hconf
  | tick =>
    rw [tickEffect_frame]
    exact hs

/-- Settles O11: an idle step and a halted block keep the state but for the queue and the result,
which the invariant does not see; the effect of a decoded transaction keeps it. -/
theorem stepKeepsTheInvariant : Obligations.StepKeepsTheInvariant := by
  intro s t hwf hs
  obtain ⟨-, rfl⟩ | ⟨w, rest, i, -, hd, he⟩ := step_cases hs
  · exact hwf
  · obtain ⟨-, rfl⟩ | ⟨hrun, u, r, heff, rfl⟩ := exec_cases he
    · exact hwf
    · exact heff.wf hrun (decodeWord_wf hd) hwf

end Sys2Proof.Machine

/-! ## Family other: ownership -/

namespace Sys2Proof.Machine

/-! ### Who changes what (10_state.md R46) -/

/-- Only a PR transaction halts the block. -/
theorem portOf_of_haltReason {i : Instr} {r : Fault} (h : haltReason i = some r) :
    portOf i = 0#2 := by
  cases i
  case ppuRdCtrl1 | ppuRdCtrl2 | ppuRdOamAddr | ppuRdOamData | ppuRdScroll | ppuRdAddr
      | ppuBadIndex =>
    exact portField_packWord _ _ _ _
  all_goals cases h

theorem portOf_map {i : Instr} {a : Addr} {d : Byte}
    (hi : i ∈ [Instr.cpuWrMapCtrl a d, .cpuWrMapChr0 a d, .cpuWrMapChr1 a d, .cpuWrMapPrg a d]) :
    portOf i = 1#2 := by
  simp only [List.mem_cons, List.not_mem_nil, or_false] at hi
  obtain rfl | rfl | rfl | rfl := hi <;> exact portField_packWord _ _ _ _

/-- OAM changes only by a register-4 write. -/
theorem Effect.oam {i : Instr} {s t : State} (h : Effect s i t) :
    t.oam = s.oam ∨ ∃ d, i = .ppuWrOamData d := by
  cases h with
  | oamData d => exact .inr ⟨d, rfl⟩
  | vramData d => rw [ppuWrite, writeLoc_frame]; exact .inl rfl
  | sram a d => rw [sramWrite_frame]; exact .inl rfl
  | map i a d => rw [mapperWrite_frame]; exact .inl rfl
  | bus i l d => rw [writeLoc_frame]; exact .inl rfl
  | tick => rw [tickEffect_frame]; exact .inl rfl
  | halt | quiet | register | statusRead | nmiAck => exact .inl rfl

/-- The PPU's registers change only by a PR or CT transaction. -/
theorem Effect.ppu {i : Instr} {s t : State} (h : Effect s i t) :
    t.ppu = s.ppu ∨ portOf i = 0#2 ∨ portOf i = 3#2 := by
  cases h with
  | register i p hport => exact .inr (.inl hport)
  | statusRead | oamData | vramData => exact .inr (.inl (portField_packWord _ _ _ _))
  | sram a d => rw [sramWrite_frame]; exact .inl rfl
  | map i a d => rw [mapperWrite_frame]; exact .inl rfl
  | bus i l d => rw [writeLoc_frame]; exact .inl rfl
  | tick | nmiAck => exact .inr (.inr (portField_packWord _ _ _ _))
  | halt | quiet => exact .inl rfl

/-- The mapper's registers and PRG RAM change only by a CP transaction. -/
theorem Effect.mapper_prgRam {i : Instr} {s t : State} (h : Effect s i t) :
    (t.mapper = s.mapper ∧ t.prgRam = s.prgRam) ∨ portOf i = 1#2 := by
  cases h with
  | vramData d => rw [ppuWrite, writeLoc_frame]; exact .inl ⟨rfl, rfl⟩
  | sram a d => exact .inr (portField_packWord _ _ _ _)
  | map i a d hi => exact .inr (portOf_map hi)
  | bus i l d => rw [writeLoc_frame]; exact .inl ⟨rfl, rfl⟩
  | tick => rw [tickEffect_frame]; exact .inl ⟨rfl, rfl⟩
  | halt | quiet | register | statusRead | oamData | nmiAck => exact .inl ⟨rfl, rfl⟩

/-- Two states hold the same three memories of PPU space. -/
def SameVram (s t : State) : Prop :=
  t.chrRam = s.chrRam ∧ t.ntRam = s.ntRam ∧ t.palRam = s.palRam

/-- The memories of PPU space change only by register 7 and by a PB transaction. -/
theorem Effect.vram {i : Instr} {s t : State} (h : Effect s i t) :
    SameVram s t ∨ (∃ d, i = .ppuWrData d ∧ SameVram (ppuWrite s (vramBusAddr s.ppu.v) d) t)
    ∨ portOf i = 2#2 := by
  cases h with
  | vramData d => exact .inr (.inl ⟨d, rfl, rfl, rfl, rfl⟩)
  | sram a d => rw [sramWrite_frame]; exact .inl ⟨rfl, rfl, rfl⟩
  | map i a d => rw [mapperWrite_frame]; exact .inl ⟨rfl, rfl, rfl⟩
  | bus i l d hport => exact .inr (.inr hport)
  | tick => rw [tickEffect_frame]; exact .inl ⟨rfl, rfl, rfl⟩
  | halt | quiet | register | statusRead | oamData | nmiAck => exact .inl ⟨rfl, rfl, rfl⟩

theorem portOf_oamData (d : Byte) : portOf (.ppuWrOamData d) = 0#2 := portField_packWord _ _ _ _

/-- Settles O57: a halted block keeps OAM, and the one effect that does not is register 4's. -/
theorem oamWrittenOnlyByRegisterFour : Obligations.OamWrittenOnlyByRegisterFour := by
  intro i s u h hne
  obtain ⟨-, rfl⟩ | ⟨-, t, r, he, rfl⟩ := exec_cases h
  · exact absurd rfl hne
  · exact he.oam.resolve_left hne

/-- Settles O56: each part an effect changes names the port it belongs to. -/
theorem portsKeepOwnership : Obligations.PortsKeepOwnership := by
  intro i s u h
  obtain ⟨-, rfl⟩ | ⟨-, t, r, he, rfl⟩ := exec_cases h
  · exact ⟨fun _ => ⟨rfl, rfl⟩, fun _ => ⟨rfl, rfl, .inl ⟨rfl, rfl, rfl⟩⟩⟩
  · refine ⟨fun hport => ⟨he.ppu.resolve_right ?_, he.oam.resolve_right ?_⟩, fun hport => ?_⟩
    · obtain hp | hp := hport <;> rw [hp] <;> decide
    · rintro ⟨d, rfl⟩
      rw [portOf_oamData] at hport
      exact absurd hport (by decide)
    · have h1 : portOf i ≠ 1#2 := by obtain hp | hp := hport <;> rw [hp] <;> decide
      have h2 : portOf i ≠ 2#2 := by obtain hp | hp := hport <;> rw [hp] <;> decide
      obtain ⟨hmapper, hprgRam⟩ := he.mapper_prgRam.resolve_right h1
      refine ⟨hmapper, hprgRam, ?_⟩
      obtain hsame | hwrite | hbus := he.vram
      · exact .inl hsame
      · exact .inr hwrite
      · exact absurd hbus h2

/-! ### The CP port does not see the PPU (41_mapper_access.md R150) -/

/-- The state with another PPU and another OAM. -/
def State.withPpuOam (s : State) (p : Ppu) (o : Memory) : State := { s with ppu := p, oam := o }

section
variable (s : State) (p : Ppu) (o : Memory) (a : Addr) (d : Byte)

theorem sramWrite_withPpuOam :
    sramWrite (s.withPpuOam p o) a d = (sramWrite s a d).withPpuOam p o := by
  by_cases hu : s.prgRamUnits = 1
  · rw [sramWrite_present a d hu, sramWrite_present (s := s.withPpuOam p o) a d hu]
    rfl
  · rw [sramWrite_absent a d hu, sramWrite_absent (s := s.withPpuOam p o) a d hu]

theorem mapperWrite_withPpuOam :
    mapperWrite (s.withPpuOam p o) a d = (mapperWrite s a d).withPpuOam p o := by
  cases hm : s.mapper with
  | noMapper mir =>
    rw [mapperWrite_noMapper a d hm, mapperWrite_noMapper (s := s.withPpuOam p o) a d hm]
  | mmc1 m =>
    rw [mapperWrite_mmc1 a d hm, mapperWrite_mmc1 (s := s.withPpuOam p o) a d hm]
    rfl

end

/-- From two states that differ in the PPU and OAM alone, the transaction leads to two such states. -/
def BlindToPpu (i : Instr) : Prop :=
  ∀ (s : State) (p : Ppu) (o : Memory),
    ∃ t, exec i s = .next t ∧ exec i (s.withPpuOam p o) = .next (t.withPpuOam p o)

theorem blindToPpu_of_transact {i : Instr} {f : State → State} (hi : ∀ s, exec i s = transact f s)
    (hf : ∀ s p o, f (s.withPpuOam p o) = (f s).withPpuOam p o) : BlindToPpu i := by
  intro s p o
  rw [hi, hi]
  cases h : s.fault with
  | some r => exact ⟨_, transact_halted h, transact_halted (s := s.withPpuOam p o) h⟩
  | none =>
    refine ⟨_, transact_running h, ?_⟩
    rw [transact_running (s := s.withPpuOam p o) h, hf]
    rfl

theorem blindToPpu_of_transactRead {i : Instr} {g : State → Byte}
    (hi : ∀ s, exec i s = transactRead (fun s => (g s, s)) s)
    (hg : ∀ s p o, g (s.withPpuOam p o) = g s) : BlindToPpu i := by
  intro s p o
  rw [hi, hi]
  cases h : s.fault with
  | some r => exact ⟨_, transactRead_halted h, transactRead_halted (s := s.withPpuOam p o) h⟩
  | none =>
    refine ⟨_, transactRead_running h, ?_⟩
    rw [transactRead_running (s := s.withPpuOam p o) h]
    dsimp only
    rw [hg]
    rfl

/-- Settles O33: no byte a CP read returns and no effect of a CP write depends on the PPU's
registers or OAM. -/
theorem cpuPortDoesNotSeeThePpu : Obligations.CpuPortDoesNotSeeThePpu := by
  intro i s p o hport
  suffices BlindToPpu i from this s p o
  cases i
  case cpuRdUnmappedLo | cpuRdUnmappedHi | cpuRdSram | cpuRdPrgLo | cpuRdPrgHi =>
    exact blindToPpu_of_transactRead (fun _ => rfl) (fun _ _ _ => rfl)
  case cpuWrUnmappedLo | cpuWrUnmappedHi =>
    exact blindToPpu_of_transact (fun _ => rfl) (fun _ _ _ => rfl)
  case cpuWrSram a d =>
    exact blindToPpu_of_transact (fun _ => rfl) (fun s p o => sramWrite_withPpuOam s p o a d)
  case cpuWrMapCtrl a d | cpuWrMapChr0 a d | cpuWrMapChr1 a d | cpuWrMapPrg a d =>
    exact blindToPpu_of_transact (fun _ => rfl) (fun s p o => mapperWrite_withPpuOam s p o a d)
  all_goals simp [portOf, encode] at hport

end Sys2Proof.Machine

/-! ## Family other: the registers -/

namespace Sys2Proof.Machine

/-! ### What the invariant gives of a state -/

theorem memoriesWf_of_wf {s : State} (h : s.wf = true) : memoriesWf s = true := by
  simp only [State.wf, Bool.and_eq_true] at h
  obtain ⟨⟨⟨hmem, -⟩, -⟩, -⟩ := h
  exact hmem

theorem oam_wf {s : State} (h : s.wf = true) : Memory.wf Config.oamBytes s.oam = true := by
  have hmem := memoriesWf_of_wf h
  simp only [memoriesWf, Bool.and_eq_true] at hmem
  obtain ⟨⟨⟨⟨⟨⟨hoam, -⟩, -⟩, -⟩, -⟩, -⟩, -⟩ := hmem
  exact hoam

/-! ### The remaining register accesses of a running block -/

/-- Fine X is the low three bits of the byte (40_ppu_registers.md R125). -/
theorem scrollFineX_eq (d : Byte) : scrollFineX d = d.extractLsb' 0 3 := by
  ext i hi
  obtain rfl | rfl | rfl : i = 0 ∨ i = 1 ∨ i = 2 := by omega
  all_goals simp [scrollFineX]

section
variable {s : State} (h : s.Running) (d : Byte)
include h

theorem exec_ppuWrOamData_running : exec (.ppuWrOamData d) s
    = .next { s with
        oam := cellWrite s.oam s.ppu.oamAddr.toNat d
        ppu := { s.ppu with oamAddr := s.ppu.oamAddr + 1#8 }
        result := none } := by
  rw [exec, execPpuWrOamData, transact_running h]
  rfl

theorem exec_ppuWrScroll_first (hw : s.ppu.w = false) : exec (.ppuWrScroll d) s
    = .next { s with
        ppu := { s.ppu with t := foldScrollX s.ppu.t d, x := scrollFineX d, w := true }
        result := none } := by
  rw [exec, execPpuWrScroll, transact_running h, if_pos hw]
  rfl

theorem exec_ppuWrScroll_second (hw : s.ppu.w = true) : exec (.ppuWrScroll d) s
    = .next { s with
        ppu := { s.ppu with t := foldScrollY s.ppu.t d, w := false }, result := none } := by
  rw [exec, execPpuWrScroll, transact_running h, if_neg (by simp [hw])]
  rfl

theorem exec_ppuWrAddr_first (hw : s.ppu.w = false) : exec (.ppuWrAddr d) s
    = .next { s with
        ppu := { s.ppu with t := foldAddrHigh s.ppu.t d, w := true }, result := none } := by
  rw [exec, execPpuWrAddr, transact_running h, if_pos hw]
  rfl

theorem exec_ppuWrData_running : exec (.ppuWrData d) s
    = .next { ppuWrite s (vramBusAddr s.ppu.v) d with ppu := stepV s.ppu, result := none } := by
  rw [exec, execPpuWrData, transact_running h]
  rfl

theorem exec_ppuRdStatus_running : exec .ppuRdStatus s
    = .next { s with ppu := afterStatusRead s.ppu, result := some (statusByte s.ppu) } := by
  rw [exec, execPpuRdStatus, transactRead_running h]
  rfl

theorem exec_ppuRdData_running : exec .ppuRdData s
    = .next { s with
        ppu := stepV { s.ppu with rdbuf := ppuRead s (vramBusAddr s.ppu.v) }
        result := some s.ppu.rdbuf } := by
  rw [exec, execPpuRdData, transactRead_running h]
  rfl

theorem exec_nmiAck_running : exec .nmiAck s
    = .next { s with ppu := nmiCleared s.ppu, result := none } := by
  rw [exec, execNmiAck, transact_running h]
  rfl

end

/-- Settles O19: OAM is in canonical form, so the stored byte is read at the cursor and nowhere
else. -/
theorem oamDataWriteResult : Obligations.OamDataWriteResult :=
  fun d _ hrun hwf => ⟨_, exec_ppuWrOamData_running hrun d, rfl,
    fun k => cellRead_cellWrite_of_wf (oam_wf hwf) _ k d⟩

/-- Settles O20: the write rules of each phase. -/
theorem scrollAndFirstAddressWriteResults : Obligations.ScrollAndFirstAddressWriteResults := by
  refine fun d s hrun => ⟨fun hw => ⟨?_, exec_ppuWrAddr_first hrun d hw⟩,
    exec_ppuWrScroll_second hrun d⟩
  rw [exec_ppuWrScroll_first hrun d hw, scrollFineX_eq]
  rfl

/-- Settles O22: register 7 stores at the place of `v & 0x3FFF` and steps `v`. -/
theorem vramDataWriteResult : Obligations.VramDataWriteResult := by
  intro d s hrun hwf
  refine ⟨_, exec_ppuWrData_running hrun d, ?_,
    fun k => readLoc_writeLoc (memoriesWf_of_wf hwf) (ppuLocate s (vramBusAddr s.ppu.v)) k d⟩
  rw [ppuWrite, writeLoc_frame]
  rfl

/-- The status byte, bit by bit (10_state.md R24). -/
theorem statusByte_bits (p : Ppu) : (statusByte p).getLsbD 7 = p.vblank
    ∧ (statusByte p).getLsbD 6 = p.s0hit ∧ (statusByte p).getLsbD 5 = p.overflow
    ∧ (statusByte p).extractLsb' 0 5 = 0#5 := by
  refine ⟨by simp [statusByte], by simp [statusByte], by simp [statusByte], ?_⟩
  ext i hi
  interval_cases i <;> simp [statusByte]

/-- Settles O25: the read rule returns the status byte. -/
theorem statusReadResult : Obligations.StatusReadResult :=
  fun s hrun => ⟨_, exec_ppuRdStatus_running hrun, statusByte_bits s.ppu⟩

/-- Settles O26: the read rule. -/
theorem vramDataReadResult : Obligations.VramDataReadResult :=
  fun _ hrun => exec_ppuRdData_running hrun

/-- Settles O27: the second read returns the byte the first one put in the latch. -/
theorem consecutiveVramReadsAreOneLate : Obligations.ConsecutiveVramReadsAreOneLate := by
  intro s hrun
  exact ⟨_, _, exec_ppuRdData_running hrun, exec_ppuRdData_running hrun, rfl, rfl, rfl, rfl⟩

/-- Settles O28: the unmapped accesses' rules. -/
theorem unmappedCpuAccessResult : Obligations.UnmappedCpuAccessResult :=
  fun a d _ hrun => ⟨exec_cpuRdUnmappedLo_running hrun a, exec_cpuRdUnmappedHi_running hrun a,
    exec_cpuWrUnmappedLo_running hrun a d, exec_cpuWrUnmappedHi_running hrun a d⟩

/-- Settles O49: the rule of NMI_ACK. -/
theorem nmiAckResult : Obligations.NmiAckResult := fun _ hrun => exec_nmiAck_running hrun

/-! ### The pseudo-transaction setv -/

/-- The two bytes of `setv a` make `a & 0x3FFF` of `t`, whatever `t` held (R127, R128). -/
theorem foldAddrLow_foldAddrHigh (t : VramAddr) (a : Addr) :
    foldAddrLow (foldAddrHigh t ((a >>> 8).setWidth 8 &&& 0x3F#8)) (a.setWidth 8)
      = (a &&& 0x3FFF#16).setWidth 15 := by
  ext i hi
  interval_cases i <;> simp [foldAddrLow, foldAddrHigh]

theorem decodeWord_wrPpuWord_addr (d : Byte) :
    decodeWord (wrPpuWord 6 d) = .ok (.ppuWrAddr d) :=
  decodeWord_packWord_register true 6 d

/-- A step on an issued word is its transaction on the block without the word. -/
theorem step_issued {w : TransactionWord} {i : Instr} (hd : decodeWord w = .ok i) (s : State)
    (rest : List TransactionWord) :
    step { s with pending := w :: rest } = exec i { s with pending := rest } :=
  step_decoded (s := { s with pending := w :: rest }) hd rfl

/-- Settles O58: the first word sets the high half of `t`, the second the low half and copies `t`
into `v`. -/
theorem setvLoadsTheVramAddress : Obligations.SetvLoadsTheVramAddress := by
  intro s a hrun hw
  have hfirst := (step_issued (decodeWord_wrPpuWord_addr _) s [wrPpuWord 6 (a.setWidth 8)]).trans
    (exec_ppuWrAddr_first (s := { s with pending := [wrPpuWord 6 (a.setWidth 8)] }) hrun
      ((a >>> 8).setWidth 8 &&& 0x3F#8) hw)
  have hsecond := fun p hp => (step_issued (decodeWord_wrPpuWord_addr _)
    { s with ppu := p, result := none } []).trans (exec_ppuWrAddr_second
      (s := { s with ppu := p, pending := [], result := none }) hrun (a.setWidth 8) hp)
  rw [assemble, blockRun_of_step hfirst, blockRun_of_step (hsecond _ rfl), blockRun_zero]
  simp only [foldAddrLow_foldAddrHigh]

end Sys2Proof.Machine

/-! ## Family other: the mapper behind the CP port -/

namespace Sys2Proof.Machine

/-! ### The PRG windows of MMC1 (20_memory.md R82) -/

theorem toNat_prgBankField (p : Reg5) : (prgBankField p).toNat = p.toNat % 16 := by
  simp [prgBankField]

/-- A bank number with its low bit cleared, and with it set. -/
theorem toNat_bankPair (r : BitVec 4) :
    (r &&& 0x0E#4).toNat = r.toNat / 2 * 2 ∧ ((r &&& 0x0E#4) ||| 1#4).toNat = r.toNat / 2 * 2 + 1 := by
  revert r; decide

section
variable {m : Mmc1}

theorem mmc1LowerBank_pair (h : controlPrgm m.control = 0#2 ∨ controlPrgm m.control = 1#2) :
    mmc1LowerBank m = m.prg.toNat % 16 / 2 * 2 := by
  rw [← toNat_prgBankField, ← (toNat_bankPair _).1]
  obtain h | h := h <;> simp [mmc1LowerBank, h]

theorem mmc1LowerBank_fixLow (h : controlPrgm m.control = 2#2) : mmc1LowerBank m = 0 := by
  simp [mmc1LowerBank, h]

theorem mmc1LowerBank_fixHigh (h : controlPrgm m.control = 3#2) :
    mmc1LowerBank m = m.prg.toNat % 16 := by
  simp [mmc1LowerBank, h, toNat_prgBankField]

variable (n : Nat)

theorem mmc1UpperBank_pair (h : controlPrgm m.control = 0#2 ∨ controlPrgm m.control = 1#2) :
    mmc1UpperBank m n = m.prg.toNat % 16 / 2 * 2 + 1 := by
  rw [← toNat_prgBankField, ← (toNat_bankPair _).2]
  obtain h | h := h <;> simp [mmc1UpperBank, h]

theorem mmc1UpperBank_fixLow (h : controlPrgm m.control = 2#2) :
    mmc1UpperBank m n = m.prg.toNat % 16 := by
  simp [mmc1UpperBank, h, toNat_prgBankField]

theorem mmc1UpperBank_fixHigh (h : controlPrgm m.control = 3#2) : mmc1UpperBank m n = n - 1 := by
  simp [mmc1UpperBank, h]

end

section
variable {s : State} {m : Mmc1} (hm : s.mapper = .mmc1 m)
include hm

theorem lowerBank_mmc1 : lowerBank s = some (mmc1LowerBank m) := by simp [lowerBank, hm]

theorem upperBank_mmc1 : upperBank s = some (mmc1UpperBank m s.prg.length) := by
  simp [upperBank, hm]

end

/-- Answers that return the same byte are the same. -/
theorem next_result_congr (s : State) {b c : Byte} (h : b = c) :
    (.next { s with result := some b } : Host.Outcome State Fault Refusal)
      = .next { s with result := some c } := by
  rw [h]

/-- Settles O31: the PRG mode gives the bank number of each window, and a read of a numbered bank
follows the out-of-range policy. -/
theorem mmc1PrgWindows : Obligations.Mmc1PrgWindows := by
  intro a s m hrun hm hne r n returns
  have hreturns : ∀ k offset,
      (.next { s with result := some (prgRead s (some k) offset) } :
        Host.Outcome State Fault Refusal) = returns k offset := fun k offset =>
    next_result_congr s (romByte_eq s.params.oor s.prg k offset hne)
  have hlo : ∀ k, mmc1LowerBank m = k →
      exec (.cpuRdPrgLo a) s = returns k (a.toNat - 0x8000) := by
    rintro k rfl
    rw [exec_cpuRdPrgLo_running hrun, lowerBank_mmc1 hm]
    exact hreturns _ _
  have hhi : ∀ k, mmc1UpperBank m n = k →
      exec (.cpuRdPrgHi a) s = returns k (a.toNat - 0xC000) := by
    rintro k rfl
    rw [exec_cpuRdPrgHi_running hrun, upperBank_mmc1 hm]
    exact hreturns _ _
  exact ⟨fun _ _ => ⟨fun h => hlo _ (mmc1LowerBank_pair h), fun h => hlo _ (mmc1LowerBank_fixLow h),
      fun h => hlo _ (mmc1LowerBank_fixHigh h)⟩,
    fun _ => ⟨fun h => hhi _ (mmc1UpperBank_pair n h), fun h => hhi _ (mmc1UpperBank_fixLow n h),
      fun h => hhi _ (mmc1UpperBank_fixHigh n h)⟩⟩

/-! ### The MMC1 serial port (41_mapper_access.md R157 to R160) -/

/-- The shift register after a bit. -/
def shiftedReg (sr : Reg5) (b : Bool) : Reg5 := (sr >>> 1) ||| (if b then 0x10#5 else 0x00#5)

theorem shiftIn_eq (m : Mmc1) (b : Bool) :
    shiftIn m b = { m with sr := shiftedReg m.sr b, cnt := m.cnt + 1 } := by
  cases b <;> rfl

/-- The bit enters at the top and the others move down. -/
theorem toNat_shiftedReg (sr : Reg5) (b : Bool) :
    (shiftedReg sr b).toNat = sr.toNat / 2 + 16 * b.toNat := by
  revert sr b; decide

/-- A commit by the number of its target. -/
theorem serialCommit_eq (m : Mmc1) (sel : BitVec 2) : serialCommit m sel = { m with
    control := if sel.toNat = 0 then m.sr else m.control
    chr0 := if sel.toNat = 1 then m.sr else m.chr0
    chr1 := if sel.toNat = 2 then m.sr else m.chr1
    prg := if sel.toNat = 3 then m.sr else m.prg
    sr := 0, cnt := 0 } := by
  obtain rfl | rfl | rfl | rfl := twoBit_cases sel <;> rfl

/-- The target of a commit is address bits 14 and 13. -/
theorem toNat_serialTarget (a : Addr) : (a.extractLsb' 13 2).toNat = a.toNat / 0x2000 % 4 := by
  simp [Nat.shiftRight_eq_div_pow]

section
variable {m : Mmc1} (a : Addr) {d : Byte}

theorem serialWrite_reset (h7 : d.getLsbD 7 = true) :
    serialWrite m a d = { m with control := m.control ||| 0x0C#5, sr := 0, cnt := 0 } := by
  obtain ⟨-, h⟩ | ⟨h, -⟩ | ⟨h, -⟩ := serialWrite_cases m a d
  · rw [h]; rfl
  all_goals rw [h7] at h; cases h

theorem serialWrite_shift (h7 : d.getLsbD 7 = false) (h4 : m.cnt ≠ 4) :
    serialWrite m a d = { m with sr := shiftedReg m.sr (d.getLsbD 0), cnt := m.cnt + 1 } := by
  obtain ⟨h, -⟩ | ⟨-, h, -⟩ | ⟨-, -, h⟩ := serialWrite_cases m a d
  · rw [h7] at h; cases h
  · exact absurd h h4
  · rw [h, shiftIn_eq]

theorem serialWrite_commit (h7 : d.getLsbD 7 = false) (h4 : m.cnt = 4) :
    serialWrite m a d = { m with
      control := if a.toNat / 0x2000 % 4 = 0 then shiftedReg m.sr (d.getLsbD 0) else m.control
      chr0 := if a.toNat / 0x2000 % 4 = 1 then shiftedReg m.sr (d.getLsbD 0) else m.chr0
      chr1 := if a.toNat / 0x2000 % 4 = 2 then shiftedReg m.sr (d.getLsbD 0) else m.chr1
      prg := if a.toNat / 0x2000 % 4 = 3 then shiftedReg m.sr (d.getLsbD 0) else m.prg
      sr := 0, cnt := 0 } := by
  obtain ⟨h, -⟩ | ⟨-, -, h⟩ | ⟨-, h, -⟩ := serialWrite_cases m a d
  · rw [h7] at h; cases h
  · rw [h, serialCommit_eq, shiftIn_eq, toNat_serialTarget]
  · exact absurd h4 h

end

/-! A MAP transaction on a running block: the serial write on MMC1, nothing on NoMapper -/

section
variable {i : Instr} {a : Addr} {d : Byte} {s : State}
  (hi : i ∈ [Instr.cpuWrMapCtrl a d, .cpuWrMapChr0 a d, .cpuWrMapChr1 a d, .cpuWrMapPrg a d])
  (hrun : s.Running)
include hi hrun

theorem exec_map_noMapper {mir : Mirroring} (hm : s.mapper = .noMapper mir) :
    exec i s = .next { s with result := none } := by
  rw [exec_map hi, transact_running hrun, mapperWrite_noMapper a d hm]
  rfl

theorem exec_map_mmc1 {m : Mmc1} (hm : s.mapper = .mmc1 m) :
    exec i s = .next { s with mapper := .mmc1 (serialWrite m a d), result := none } := by
  rw [exec_map hi, transact_running hrun, mapperWrite_mmc1 a d hm]
  rfl

end

/-- Settles O34: a MAP transaction is the serial write of its operands, whose three cases are the
reset, a bit below the fifth, and the commit to the register its address range names. -/
theorem serialWriteResults : Obligations.SerialWriteResults := by
  intro a d s hrun
  refine ⟨fun mir hm i hi => exec_map_noMapper hi hrun hm, fun m hm => ?_⟩
  refine ⟨fun h7 i hi => ?_, fun h7 h4 i hi => ?_, fun h7 h4 => ?_⟩
  · rw [exec_map_mmc1 hi hrun hm, serialWrite_reset a h7]
  · rw [exec_map_mmc1 hi hrun hm, serialWrite_shift a h7 h4]
    rfl
  · have ha := a.isLt
    have hexec := fun i hi => exec_map_mmc1 (i := i) (a := a) (d := d) hi hrun hm
    rw [serialWrite_commit a h7 h4] at hexec
    refine ⟨fun _ _ => ?_, fun _ _ => ?_, fun _ _ => ?_, fun _ => ?_⟩
    · rw [hexec _ (by simp), show a.toNat / 0x2000 % 4 = 0 by omega]; rfl
    · rw [hexec _ (by simp), show a.toNat / 0x2000 % 4 = 1 by omega]; rfl
    · rw [hexec _ (by simp), show a.toNat / 0x2000 % 4 = 2 by omega]; rfl
    · rw [hexec _ (by simp), show a.toNat / 0x2000 % 4 = 3 by omega]; rfl

/-! ### Issued serial writes -/

/-- The serial port after a list of writes. -/
def serialWrites (m : Mmc1) (ws : List (Addr × Byte)) : Mmc1 :=
  ws.foldl (fun m w => serialWrite m w.1 w.2) m

/-- The words of a list of CP writes. -/
def serialWords (ws : List (Addr × Byte)) : List TransactionWord :=
  ws.map (fun w => wrCpuWord w.1 w.2)

theorem step_issued_serialWrite {s : State} {m : Mmc1} (hrun : s.Running) (hm : s.mapper = .mmc1 m)
    {a : Addr} (ha : 0x8000 ≤ a.toNat) (d : Byte) (rest : List TransactionWord) :
    step { s with pending := wrCpuWord a d :: rest } = .next { s with
      pending := rest, mapper := .mmc1 (serialWrite m a d), result := none } := by
  have hd : decodeWord (wrCpuWord a d) = .ok (decodeCpuWrite a d) :=
    decodeWord_packWord_cpuWrite a d
  rw [step_issued hd]
  exact exec_map_mmc1 (s := { s with pending := rest }) (decodeCpuWrite_mem_map d ha) hrun hm

/-- A run over issued CP writes from 0x8000 up is the serial writes in their order. -/
theorem blockRun_serialWrites (w : Addr × Byte) (ws : List (Addr × Byte)) :
    ∀ (s : State) (m : Mmc1), s.Running → s.mapper = .mmc1 m →
      (∀ u ∈ w :: ws, 0x8000 ≤ u.1.toNat) →
      blockRun (ws.length + 1) { s with pending := serialWords (w :: ws) }
        = .next { s with pending := [], mapper := .mmc1 (serialWrites m (w :: ws)), result := none } := by
  induction ws generalizing w with
  | nil =>
    intro s m hrun hm ha
    exact blockRun_of_step (step_issued_serialWrite hrun hm (ha w (by simp)) w.2 [])
  | cons w' ws ih =>
    intro s m hrun hm ha
    have hstep := step_issued_serialWrite hrun hm (ha w (by simp)) w.2 (serialWords (w' :: ws))
    exact (blockRun_of_step hstep).trans
      (ih w' { s with mapper := .mmc1 (serialWrite m w.1 w.2), result := none } _ hrun rfl
        (fun u hu => ha u (List.mem_cons_of_mem _ hu)))

/-- Five bits shifted in replace the register's, the first lowest (90_conflicts.md C1). -/
theorem shiftedReg_five (sr : Reg5) (b0 b1 b2 b3 b4 : Bool) :
    shiftedReg (shiftedReg (shiftedReg (shiftedReg (shiftedReg sr b0) b1) b2) b3) b4
      = BitVec.ofNat 5 (b0.toNat + 2 * b1.toNat + 4 * b2.toNat + 8 * b3.toNat + 16 * b4.toNat) := by
  have hsr := sr.isLt
  have h0 := b0.toNat_le; have h1 := b1.toNat_le; have h2 := b2.toNat_le
  have h3 := b3.toNat_le; have h4 := b4.toNat_le
  apply BitVec.eq_of_toNat_eq
  simp only [toNat_shiftedReg, BitVec.toNat_ofNat]
  omega

/-- Settles O35: from an empty port the first four writes shift and the fifth commits. -/
theorem fiveSerialWritesCommitOnce : Obligations.FiveSerialWritesCommitOnce := by
  intro s m a0 a1 a2 a3 a4 d0 d1 d2 d3 d4 hrun hm hcnt ha hd
  simp only [List.forall_mem_cons, List.not_mem_nil, false_implies, implies_true, and_true]
    at ha hd
  obtain ⟨ha0, ha1, ha2, ha3, ha4⟩ := ha
  obtain ⟨hd0, hd1, hd2, hd3, hd4⟩ := hd
  have hall := blockRun_serialWrites (a0, d0) [(a1, d1), (a2, d2), (a3, d3), (a4, d4)] s m hrun hm
    (by simp [ha0, ha1, ha2, ha3, ha4])
  simp only [serialWrites, List.foldl_cons, List.foldl_nil] at hall
  rw [serialWrite_shift a0 hd0 (by omega), serialWrite_shift a1 hd1 (by dsimp only; omega),
    serialWrite_shift a2 hd2 (by dsimp only; omega),
    serialWrite_shift a3 hd3 (by dsimp only; omega),
    serialWrite_commit a4 hd4 (by dsimp only; omega), shiftedReg_five] at hall
  exact hall

end Sys2Proof.Machine

/-! ## Family other: PPU space -/

namespace Sys2Proof.Machine

/-! ### Bits and masks of an address as numbers -/

theorem toNat_getLsbD {n : Nat} (x : BitVec n) (k : Nat) :
    (x.getLsbD k).toNat = x.toNat / 2 ^ k % 2 := by
  rw [BitVec.getLsbD, Nat.toNat_testBit]

theorem toNat_and_0FFF (a : Addr) : (a &&& 0x0FFF#16).toNat = a.toNat % 2 ^ 12 := by
  rw [BitVec.toNat_and]; exact Nat.and_two_pow_sub_one_eq_mod a.toNat 12

theorem toNat_and_1F (a : Addr) : (a &&& 0x1F#16).toNat = a.toNat % 2 ^ 5 := by
  rw [BitVec.toNat_and]; exact Nat.and_two_pow_sub_one_eq_mod a.toNat 5

theorem toNat_and_0F (a : Addr) : (a &&& 0x0F#16).toNat = a.toNat % 2 ^ 4 := by
  rw [BitVec.toNat_and]; exact Nat.and_two_pow_sub_one_eq_mod a.toNat 4

theorem toNat_busAddr (a : Addr) : (busAddr a).toNat = a.toNat % 2 ^ 14 := toNat_and_3FFF a

/-! ### Where an address stands, by its range (20_memory.md R74) -/

section
variable (s : State) {a : Addr}

theorem ppuLocate_pat (h : a.busWithin 0x0000 0x1FFF = true) :
    ppuLocate s a = chrLocate s (busAddr a) :=
  if_pos (toNat_busAddr_lt h)

theorem ppuLocate_nt (h : a.busWithin 0x2000 0x3EFF = true) :
    ppuLocate s a = ntLocate s (busAddr a) := by
  rw [busWithin_iff, ← toNat_busAddr] at h
  exact (if_neg (show ¬ (busAddr a).toNat < 0x2000 by omega)).trans
    (if_pos (show (busAddr a).toNat < 0x3F00 by omega))

theorem ppuLocate_pal (h : a.busWithin 0x3F00 0x3FFF = true) :
    ppuLocate s a = palLocate (busAddr a) := by
  rw [busWithin_iff, ← toNat_busAddr] at h
  exact (if_neg (show ¬ (busAddr a).toNat < 0x2000 by omega)).trans
    (if_neg (show ¬ (busAddr a).toNat < 0x3F00 by omega))

end

/-- Every address lies in one of the three regions. -/
theorem busWithin_cases (a : Addr) : a.busWithin 0x0000 0x1FFF = true
    ∨ a.busWithin 0x2000 0x3EFF = true ∨ a.busWithin 0x3F00 0x3FFF = true := by
  simp only [busWithin_iff]
  omega

/-! ### A PB transaction of a running block is the PPU-space access (41_mapper_access.md R165 to R170) -/

section
variable {s : State} (hrun : s.Running) {a : Addr} (d : Byte)
include hrun

theorem exec_pbRdPat_running (h : a.busWithin 0x0000 0x1FFF = true) :
    exec (.pbRdPat a) s = .next { s with result := some (ppuRead s a) } := by
  rw [ppuRead, ppuLocate_pat s h, exec, execPbRdPat, transactRead_running hrun]
  rfl

theorem exec_pbRdNt_running (h : a.busWithin 0x2000 0x3EFF = true) :
    exec (.pbRdNt a) s = .next { s with result := some (ppuRead s a) } := by
  rw [ppuRead, ppuLocate_nt s h, exec, execPbRdNt, transactRead_running hrun]
  rfl

theorem exec_pbRdPal_running (h : a.busWithin 0x3F00 0x3FFF = true) :
    exec (.pbRdPal a) s = .next { s with result := some (ppuRead s a) } := by
  rw [ppuRead, ppuLocate_pal s h, exec, execPbRdPal, transactRead_running hrun]
  rfl

theorem exec_pbWrPat_running (h : a.busWithin 0x0000 0x1FFF = true) :
    exec (.pbWrPat a d) s = .next { ppuWrite s a d with result := none } := by
  rw [ppuWrite, ppuLocate_pat s h, exec, execPbWrPat, transact_running hrun]
  rfl

theorem exec_pbWrNt_running (h : a.busWithin 0x2000 0x3EFF = true) :
    exec (.pbWrNt a d) s = .next { ppuWrite s a d with result := none } := by
  rw [ppuWrite, ppuLocate_nt s h, exec, execPbWrNt, transact_running hrun]
  rfl

theorem exec_pbWrPal_running (h : a.busWithin 0x3F00 0x3FFF = true) :
    exec (.pbWrPal a d) s = .next { ppuWrite s a d with result := none } := by
  rw [ppuWrite, ppuLocate_pal s h, exec, execPbWrPal, transact_running hrun]
  rfl

end

/-- Settles O39: in each region the decoded row is the PPU-space access. -/
theorem busPortIsPpuSpaceAccess : Obligations.BusPortIsPpuSpaceAccess := by
  intro a d s hrun
  obtain h | h | h := busWithin_cases a
  · rw [decodeBusRead_pat h, decodeBusWrite_pat d h]
    exact ⟨exec_pbRdPat_running hrun h, exec_pbWrPat_running hrun d h⟩
  · rw [decodeBusRead_nt h, decodeBusWrite_nt d h]
    exact ⟨exec_pbRdNt_running hrun h, exec_pbWrNt_running hrun d h⟩
  · rw [decodeBusRead_pal h, decodeBusWrite_pal d h]
    exact ⟨exec_pbRdPal_running hrun h, exec_pbWrPal_running hrun d h⟩

/-- The state after a PPU-space write, in the invariant: the byte at the place, where it can be
written, and everything else as before. -/
theorem ppuWrite_stores {s : State} (hwf : s.wf = true) (a : Addr) (d : Byte) :
    ∃ t, (.next { ppuWrite s a d with result := none } : Host.Outcome State Fault Refusal) = .next t
      ∧ t = { s with chrRam := t.chrRam, ntRam := t.ntRam, palRam := t.palRam, result := none }
      ∧ ∀ l : PpuLoc, readLoc t l =
          if l = ppuLocate s a ∧ locWritable s l = true then d else readLoc s l := by
  refine ⟨_, rfl, ?_, fun l => readLoc_writeLoc (memoriesWf_of_wf hwf) (ppuLocate s a) l d⟩
  rw [ppuWrite, writeLoc_frame]

/-- Settles O38: each row is the PPU-space write of its address. -/
theorem busWriteResults : Obligations.BusWriteResults := by
  intro a d s hrun hwf stores
  refine ⟨fun h => ?_, fun h => ?_, fun h => ?_⟩
  · simp only [stores, exec_pbWrPat_running hrun d h]
    exact ppuWrite_stores hwf a d
  · simp only [stores, exec_pbWrNt_running hrun d h]
    exact ppuWrite_stores hwf a d
  · simp only [stores, exec_pbWrPal_running hrun d h]
    exact ppuWrite_stores hwf a d

/-! ### Nametables (20_memory.md section 3) -/

/-- The low ten bits and the block of an address make its nametable byte. -/
theorem ntIndex_eq (m : NtMode) (a : Addr) :
    ntIndex m a = ntBlock m a * 0x400 + a.toNat % 0x400 := by
  simp [ntIndex]

/-- The slot and the low ten bits of an address, in nametable space (R77). -/
theorem toNat_nametableAddr (a : Addr) : (nametableAddr a).toNat = 0x2000 + a.toNat % 2 ^ 12 := by
  rw [nametableAddr, BitVec.toNat_or, toNat_and_0FFF]
  exact shift_or_eq_add 13 1 _ (by omega)

theorem nametableAddr_busAddr (a : Addr) : nametableAddr (busAddr a) = nametableAddr a := by
  apply BitVec.eq_of_toNat_eq
  rw [toNat_nametableAddr, toNat_nametableAddr, toNat_busAddr]
  omega

/-- Settles O40: a translated address keeps the low ten bits and the slot bit its mode reads. -/
theorem translatorIsIdempotent : Obligations.TranslatorIsIdempotent := by
  intro m a
  have hidem : ntTranslate m (ntTranslate m a) = ntTranslate m a := by
    cases m <;> ext i hi <;> interval_cases i <;> simp [ntTranslate]
  have hlow : (ntTranslate m a).extractLsb' 0 10 = a.extractLsb' 0 10 := by
    cases m <;> ext i hi <;> interval_cases i <;> simp [ntTranslate]
  have hblock : ntBlock m (ntTranslate m a) = ntBlock m a := by
    cases m <;> simp [ntBlock, ntTranslate]
  have htop : (ntTranslate m a).toNat / 2 ^ 12 = 2 := by
    have hbits : ntTranslate m a >>> 12 = 2#16 := by
      cases m <;> ext i hi <;> interval_cases i <;> simp [ntTranslate]
    rw [← Nat.shiftRight_eq_div_pow, ← BitVec.toNat_ushiftRight, hbits]
    rfl
  refine ⟨hidem, hlow, by omega, by omega, ?_, ntIndex_lt m a⟩
  · rw [ntIndex, ntIndex, hblock, hlow]

theorem ntMode_mmc1 (r : Mmc1) : ntMode (.mmc1 r) =
    if controlMir r.control = 0#2 then .singleLow
    else if controlMir r.control = 1#2 then .singleHigh
    else if controlMir r.control = 2#2 then .vertical else .horizontal := by
  obtain h | h | h | h := twoBit_cases (controlMir r.control) <;> simp [ntMode, h]

/-- Settles O41: horizontal mirroring reads address bit 11, the high bit of the slot, and vertical
mirroring bit 10, its low bit. -/
theorem mirroringSelectsBlocks : Obligations.MirroringSelectsBlocks := by
  intro a m slot block
  have hh : ntBlock .horizontal a = if slot = 0 ∨ slot = 1 then 0 else 1 := by
    rw [ntBlock, toNat_getLsbD]
    split_ifs <;> omega
  have hv : ntBlock .vertical a = if slot = 0 ∨ slot = 2 then 0 else 1 := by
    rw [ntBlock, toNat_getLsbD]
    split_ifs <;> omega
  refine ⟨?_, ?_, ?_, ?_⟩
  · rintro (rfl | ⟨r, rfl, hr⟩)
    · exact hh
    · simpa [block, ntMode_mmc1, hr] using hh
  · rintro (rfl | ⟨r, rfl, hr⟩)
    · exact hv
    · simpa [block, ntMode_mmc1, hr] using hv
  · rintro ⟨r, rfl, hr⟩
    simp [block, ntMode_mmc1, hr, ntBlock]
  · rintro ⟨r, rfl, hr⟩
    simp [block, ntMode_mmc1, hr, ntBlock]

/-! ### The palette (20_memory.md R76) -/

theorem palIndex_eq (a : Addr) : palIndex a =
    if a.toNat % 32 = 0x10 ∨ a.toNat % 32 = 0x14 ∨ a.toNat % 32 = 0x18 ∨ a.toNat % 32 = 0x1C then
      a.toNat % 32 - 0x10
    else a.toNat % 32 := by
  simp only [palIndex, ← BitVec.toNat_inj, toNat_and_1F, toNat_and_0F, BitVec.toNat_ofNat]
  split_ifs <;> omega

/-- Settles O36: the place of each region, the block and the palette entry in arithmetic. -/
theorem nametableAndPaletteReadResults : Obligations.NametableAndPaletteReadResults := by
  intro a s hrun
  refine ⟨fun h => ?_, fun h => ?_⟩
  · have hlow : (nametableAddr a).toNat % 0x400 = a.toNat % 0x400 := by
      rw [toNat_nametableAddr]
      omega
    rw [exec_pbRdNt_running hrun h, ppuRead, ppuLocate_nt s h, ntLocate, nametableAddr_busAddr,
      readLoc, ntIndex_eq, hlow]
    rfl
  · rw [exec_pbRdPal_running hrun h, ppuRead, ppuLocate_pal s h, palLocate, readLoc, palIndex_eq,
      toNat_busAddr, show a.toNat % 2 ^ 14 % 32 = a.toNat % 32 by omega]

/-- Settles O42: the place of a palette address depends on the entry modulo 32 alone, that of a
nametable address on its low twelve bits, and of any address the low fourteen bits are used. -/
theorem ppuSpaceMirrors : Obligations.PpuSpaceMirrors := by
  intro s a
  refine ⟨fun h1 h2 => ?_, ?_, fun h1 h2 => ?_, ?_⟩
  · have hadd : (a + 32#16).toNat = a.toNat + 32 := by
      rw [BitVec.toNat_add, BitVec.toNat_ofNat]
      omega
    have hindex : palIndex (busAddr (a + 32#16)) = palIndex (busAddr a) := by
      simp only [palIndex_eq, toNat_busAddr, hadd]
      rw [show (a.toNat + 32) % 2 ^ 14 % 32 = a.toNat % 2 ^ 14 % 32 by omega]
    rw [ppuRead, ppuRead, ppuLocate_pal s (a := a) (by rw [busWithin_iff]; omega),
      ppuLocate_pal s (by rw [busWithin_iff, hadd]; omega), palLocate, palLocate, hindex]
  · simp only [List.forall_mem_cons, List.not_mem_nil, false_implies, implies_true, and_true]
    exact ⟨rfl, rfl, rfl, rfl⟩
  · have hsub : (a - 0x1000#16).toNat = a.toNat - 0x1000 := by
      rw [BitVec.toNat_sub, BitVec.toNat_ofNat]
      omega
    have haddr : nametableAddr (a - 0x1000#16) = nametableAddr a := by
      apply BitVec.eq_of_toNat_eq
      rw [toNat_nametableAddr, toNat_nametableAddr, hsub]
      omega
    rw [ppuRead, ppuRead, ppuLocate_nt s (a := a) (by rw [busWithin_iff]; omega),
      ppuLocate_nt s (by rw [busWithin_iff, hsub]; omega), ntLocate, ntLocate,
      nametableAddr_busAddr, nametableAddr_busAddr, haddr]
  · simp only [ppuRead, ppuLocate, BitVec.and_assoc, BitVec.and_self]

/-! ### Pattern memory (R80, R85, R86) -/

/-- Address bit 12 of a pattern address chooses its half. -/
theorem getLsbD_twelve {b : Addr} (hb : b.toNat < 0x2000) :
    b.getLsbD 12 = decide (¬ b.toNat < 0x1000) := by
  have h := toNat_getLsbD b 12
  cases hbit : b.getLsbD 12 <;> rw [hbit] at h <;> simp <;> simp at h <;> omega

/-- Bits 4 to 1 of a bank number with another low bit. -/
theorem toNat_chrPair (c : Reg5) (b : Bool) :
    ((c &&& 0x1E#5) ||| (BitVec.ofBool b).setWidth 5).toNat = c.toNat / 2 * 2 + b.toNat := by
  revert c b; decide

section
variable (m : Mmc1) {b : Addr} (hb : b.toNat < 0x2000)
include hb

theorem mmc1ChrUnit_eq : mmc1ChrUnit m b =
    if controlChrm m.control then (if b.toNat < 0x1000 then m.chr0.toNat else m.chr1.toNat)
    else m.chr0.toNat / 2 * 2 + b.toNat / 0x1000 := by
  have hhalf : (b.getLsbD 12).toNat = b.toNat / 0x1000 := by
    rw [toNat_getLsbD]
    omega
  rw [mmc1ChrUnit, toNat_chrPair, hhalf, getLsbD_twelve hb]
  by_cases h : b.toNat < 0x1000 <;> simp [h]

theorem mmc1ChrRamIndex_eq : mmc1ChrRamIndex m b =
    if controlChrm m.control then
      (if b.toNat < 0x1000 then m.chr0.toNat else m.chr1.toNat) % 2 * 0x1000 + b.toNat % 0x1000
    else b.toNat := by
  rw [mmc1ChrRamIndex, toNat_getLsbD, getLsbD_twelve hb]
  by_cases h : b.toNat < 0x1000 <;> simp [h]

end

section
variable {s : State} (a : Addr)

theorem chrLocate_noMapper_rom {mir : Mirroring} (hm : s.mapper = .noMapper mir)
    (hc : s.chr.length = 1) : chrLocate s a = .chrRom 0 a.toNat := by
  simp [chrLocate, hm, hc]

theorem chrLocate_noMapper_ram {mir : Mirroring} (hm : s.mapper = .noMapper mir)
    (hc : s.chr.length ≠ 1) : chrLocate s a = .chrRam a.toNat := by
  simp [chrLocate, hm, hc]

theorem chrLocate_mmc1_rom {m : Mmc1} (hm : s.mapper = .mmc1 m) (hc : s.chr ≠ []) :
    chrLocate s a
      = .chrRom (mmc1ChrUnit m a / 2) (mmc1ChrUnit m a % 2 * 0x1000 + a.toNat % 0x1000) := by
  simp [chrLocate, hm, hc]

theorem chrLocate_mmc1_ram {m : Mmc1} (hm : s.mapper = .mmc1 m) (hc : s.chr = []) :
    chrLocate s a = .chrRam (mmc1ChrRamIndex m a) := by
  simp [chrLocate, hm, hc]

end

/-- Settles O37: the mapper and its CHR memory choose the place, its unit and half in arithmetic, and
a read of a numbered buffer follows the out-of-range policy. -/
theorem patternReadResults : Obligations.PatternReadResults := by
  intro addr s hrun h
  have hb := toNat_busAddr_lt h
  have ha : (busAddr addr).toNat = addr.toNat % 0x4000 := toNat_busAddr addr
  rw [exec_pbRdPat_running hrun h, ppuRead, ppuLocate_pat s h]
  refine ⟨fun mir hm => ⟨fun b hc => ?_, fun hc => ?_⟩,
    fun m hm => ⟨fun hc => ?_, fun hc hmode => ?_, fun hc hmode => ?_⟩⟩
  · rw [chrLocate_noMapper_rom _ hm (by rw [hc]; rfl), readLoc, romByte_eq _ _ _ _ (by simp [hc]),
      hc, ha]
    rfl
  · rw [chrLocate_noMapper_ram _ hm (by rw [hc]; decide), readLoc, ha]
  · rw [chrLocate_mmc1_rom _ hm hc, readLoc, mmc1ChrUnit_eq m hb, ha]
    exact next_result_congr s (romByte_eq _ _ _ _ hc)
  · rw [chrLocate_mmc1_ram _ hm hc, readLoc, mmc1ChrRamIndex_eq m hb, hmode, ha]
    rfl
  · rw [chrLocate_mmc1_ram _ hm hc, readLoc, mmc1ChrRamIndex_eq m hb, hmode, ha]
    rfl

end Sys2Proof.Machine

/-! ## Family other: timing -/

namespace Sys2Proof.Machine

/-! ### Positions in the frame (42_timing.md R180, R192) -/

/-- Settles O44: frame, scanline and offset are the digits of the counter, so a position in the
frame is one remainder. -/
theorem framePositions : Obligations.FramePositions := by
  intro cyc
  simp only [tickOffset, tickScanline, tickFrame, Config.offsets, Config.scanlines,
    Config.frameTicks]
  refine ⟨?_, ?_, ?_, ?_, ?_⟩ <;> omega

/-! ### The fields of a VRAM address as numbers (10_state.md R33) -/

section
variable (v : VramAddr)

theorem toNat_coarseX : (coarseX v).toNat = v.toNat % 32 := by
  simp [coarseX]

theorem toNat_coarseY : (coarseY v).toNat = v.toNat / 32 % 32 := by
  simp [coarseY, Nat.shiftRight_eq_div_pow]

theorem toNat_fineY : (fineY v).toNat = v.toNat / 0x1000 := by
  have hv := v.isLt
  simp [fineY, Nat.shiftRight_eq_div_pow]
  omega

/-- Two fields are equal when their numbers are. -/
theorem extractLsb'_eq_of_div {n : Nat} {u w : BitVec n} {k len : Nat}
    (h : u.toNat / 2 ^ k % 2 ^ len = w.toNat / 2 ^ k % 2 ^ len) :
    u.extractLsb' k len = w.extractLsb' k len := by
  apply BitVec.eq_of_toNat_eq
  simpa only [BitVec.extractLsb'_toNat, Nat.shiftRight_eq_div_pow] using h

theorem getLsbD_eq_of_div {n : Nat} {u w : BitVec n} {k : Nat}
    (h : u.toNat / 2 ^ k % 2 = w.toNat / 2 ^ k % 2) : u.getLsbD k = w.getLsbD k := by
  rw [BitVec.getLsbD, BitVec.getLsbD, Nat.testBit_eq_decide_div_mod_eq,
    Nat.testBit_eq_decide_div_mod_eq, h]

end

/-! ### The scroll increments (R190, R191) -/

section
variable {v : VramAddr}

theorem incCoarseX_wrap (h : coarseX v = 31#5) :
    incCoarseX v = (v &&& ~~~0x001F#15) ^^^ 0x0400#15 := if_pos h

/-- Below column 31 the increment does not carry. -/
theorem toNat_incCoarseX (h : coarseX v ≠ 31#5) : (incCoarseX v).toNat = v.toNat + 1 := by
  have hv := v.isLt
  rw [Ne, ← BitVec.toNat_inj, toNat_coarseX, BitVec.toNat_ofNat] at h
  rw [incCoarseX, if_neg (by rwa [← BitVec.toNat_inj, toNat_coarseX, BitVec.toNat_ofNat]),
    BitVec.toNat_add, BitVec.toNat_ofNat]
  omega

end

/-- Settles O45: at column 31 the low five bits are cleared and bit 10 switched; below it the
increment carries into no other field. -/
theorem coarseXIncrementFields : Obligations.CoarseXIncrementFields := by
  intro v
  by_cases h : coarseX v = 31#5
  · rw [incCoarseX_wrap h, h, decide_eq_true rfl]
    refine ⟨?_, by simp, ?_, ?_⟩ <;> ext i hi <;> interval_cases i <;> simp [coarseX]
  · have hinc := toNat_incCoarseX h
    have hx : v.toNat % 32 ≠ 31 := fun e => h (BitVec.eq_of_toNat_eq (by rw [toNat_coarseX, e]; rfl))
    rw [decide_eq_false h, Bool.bne_false]
    refine ⟨BitVec.eq_of_toNat_eq ?_, getLsbD_eq_of_div ?_, extractLsb'_eq_of_div ?_,
      extractLsb'_eq_of_div ?_⟩
    · rw [BitVec.toNat_add, toNat_coarseX, toNat_coarseX, hinc, BitVec.toNat_ofNat]
      omega
    all_goals omega

/-- Clearing fine Y leaves the low twelve bits. -/
theorem toNat_clearFineY (v : VramAddr) : (v &&& ~~~0x7000#15).toNat = v.toNat % 2 ^ 12 := by
  rw [show ~~~0x7000#15 = 0x0FFF#15 by decide, BitVec.toNat_and]
  exact Nat.and_two_pow_sub_one_eq_mod v.toNat 12

section
variable {v : VramAddr}

/-- Below fine row 7 the increment does not carry. -/
theorem toNat_incY (h : fineY v ≠ 7#3) : (incY v).toNat = v.toNat + 0x1000 := by
  have hv := v.isLt
  have hf := (fineY v).isLt
  rw [Ne, ← BitVec.toNat_inj, BitVec.toNat_ofNat] at h
  have hlt : (fineY v).toNat < 7 := by omega
  rw [incY, if_pos hlt, BitVec.toNat_add, BitVec.toNat_ofNat]
  rw [toNat_fineY] at hlt
  omega

variable (h7 : fineY v = 7#3)
include h7

theorem incY_row29 (h : coarseY v = 29#5) :
    incY v = ((v &&& ~~~0x7000#15) &&& ~~~0x03E0#15) ^^^ 0x0800#15 := by
  rw [incY, if_neg (by rw [h7]; decide), if_pos h]

theorem incY_row31 (h : coarseY v = 31#5) :
    incY v = (v &&& ~~~0x7000#15) &&& ~~~0x03E0#15 := by
  rw [incY, if_neg (by rw [h7]; decide), if_neg (by rw [h]; decide), if_pos h]

/-- At fine row 7 and a row other than 29 and 31 the row moves by one without a carry. -/
theorem toNat_incY_row (h29 : coarseY v ≠ 29#5) (h31 : coarseY v ≠ 31#5) :
    (incY v).toNat = v.toNat % 2 ^ 12 + 32 := by
  rw [incY, if_neg (by rw [h7]; decide), if_neg h29, if_neg h31, BitVec.toNat_add,
    toNat_clearFineY, BitVec.toNat_ofNat]
  omega

end

/-- Settles O46: below fine row 7 only fine Y moves; at 7 it is cleared and the row decides: 29 and 31
clear the row, 29 switching bit 11, and any other row counts without a carry. -/
theorem verticalIncrementFields : Obligations.VerticalIncrementFields := by
  intro v
  by_cases h7 : fineY v = 7#3
  · rw [h7, if_neg (not_not.2 rfl), decide_eq_true rfl, Bool.true_and]
    by_cases h29 : coarseY v = 29#5
    · rw [incY_row29 h7 h29, if_pos h29, decide_eq_true h29]
      refine ⟨?_, ?_, by simp, ?_, by simp⟩ <;> ext i hi <;> interval_cases i <;>
        simp [fineY, coarseX, coarseY]
    · rw [if_neg h29, decide_eq_false h29, Bool.bne_false]
      by_cases h31 : coarseY v = 31#5
      · rw [incY_row31 h7 h31, h31]
        refine ⟨?_, ?_, by simp, ?_, by simp⟩ <;> ext i hi <;> interval_cases i <;>
          simp [fineY, coarseX, coarseY]
      · have hinc := toNat_incY_row h7 h29 h31
        have hy : v.toNat / 32 % 32 ≠ 31 := fun e =>
          h31 (BitVec.eq_of_toNat_eq (by rw [toNat_coarseY, e]; rfl))
        refine ⟨BitVec.eq_of_toNat_eq ?_, extractLsb'_eq_of_div ?_, getLsbD_eq_of_div ?_,
          BitVec.eq_of_toNat_eq ?_, getLsbD_eq_of_div ?_⟩
        · rw [toNat_fineY, hinc]
          change _ = 0
          omega
        · omega
        · omega
        · rw [BitVec.toNat_add, toNat_coarseY, toNat_coarseY, hinc, BitVec.toNat_ofNat]
          omega
        · omega
  · have hv := v.isLt
    have hinc := toNat_incY h7
    rw [if_pos h7, decide_eq_false h7, Bool.false_and, Bool.bne_false]
    refine ⟨BitVec.eq_of_toNat_eq ?_, extractLsb'_eq_of_div ?_, getLsbD_eq_of_div ?_,
      extractLsb'_eq_of_div ?_, getLsbD_eq_of_div ?_⟩
    · rw [BitVec.toNat_add, toNat_fineY, toNat_fineY, hinc, BitVec.toNat_ofNat]
      omega
    all_goals omega

end Sys2Proof.Machine

/-! ## Family other: the tick -/

namespace Sys2Proof.Machine

/-! ### The rows of the tick table at their offsets (42_timing.md R182) -/

section
variable (sl : Nat) (s : State)

theorem tickActions_at_255 : tickActions sl 255 s = rowRender sl 255 s := by
  simpa using tickActions_cases sl 255 s

theorem tickActions_at_256 : tickActions sl 256 s = rowIncY sl 256 s := by
  simpa using tickActions_cases sl 256 s

theorem tickActions_at_257 : tickActions sl 257 s = rowHorizontal sl 257 s := by
  simpa using tickActions_cases sl 257 s

theorem tickActions_vertical {off : Nat} (h : 280 ≤ off ∧ off ≤ 304) :
    tickActions sl off s = rowVertical sl off s := by
  obtain ⟨_, _⟩ | ⟨_, _⟩ | ⟨_, _⟩ | ⟨_, _, e⟩ | ⟨_, _⟩ | ⟨_, _, _, _, _, _⟩ :=
    tickActions_cases sl off s
  case inr.inr.inr.inl => exact e
  all_goals omega

theorem tickActions_at_0 :
    tickActions sl 0 s = rowVblankEnd sl 0 (rowVblankStart sl 0 s) := by
  simpa using tickActions_cases sl 0 s

end

/-- Where no row's condition holds a tick has no action. -/
theorem tickActions_idle {sl off : Nat} {s : State}
    (hrender : ¬ (off = 255 ∧ sl < 240 ∧ s.ppu.vblank = false ∧ ctrl2Bge s.ppu.ctrl2 = true))
    (hscroll : ¬ ((off = 256 ∨ off = 257) ∧ scrollGuard s sl = true))
    (hvertical : ¬ (sl = 261 ∧ 280 ≤ off ∧ off ≤ 304 ∧ scrollGuard s sl = true))
    (hstart : ¬ (sl = 241 ∧ off = 0)) (hend : ¬ (sl = 261 ∧ off = 0)) :
    tickActions sl off s = s := by
  rw [tickActions, rowRender, if_neg hrender, rowIncY, if_neg (fun h => hscroll ⟨.inl h.1, h.2⟩),
    rowHorizontal, if_neg (fun h => hscroll ⟨.inr h.1, h.2⟩), rowVertical, if_neg hvertical,
    rowVblankStart, if_neg hstart, rowVblankEnd, if_neg hend]

/-! ### The PPU after a tick -/

theorem exec_tick_running {s : State} (h : s.Running) : exec .tick s
    = .next { s with ppu := (tickEffect s).ppu, result := none } := by
  rw [exec, execTick, transact_running h, tickEffect_frame]
  rfl

/-- A tick leaves the PPU its actions give, with the counter one further (R181). -/
theorem tickEffect_ppu {s t : State}
    (h : tickActions (tickScanline s.ppu.cyc) (tickOffset s.ppu.cyc) s = t) :
    (tickEffect s).ppu = { t.ppu with cyc := s.ppu.cyc + 1 } := by
  have hcyc : t.ppu.cyc = s.ppu.cyc := by
    rw [← h, tickActions_frame]
    rfl
  rw [tickEffect, h, ← hcyc]
  rfl

/-- Vblank start raises NMI exactly when control1 enables it (R188). -/
theorem vblankStart_eq (p : Ppu) : vblankStart p = { p with
    events := p.events ++ [.renderSync]
    vblank := true
    nmi := if p.ctrl1.getLsbD 7 then true else p.nmi } := by
  simp only [vblankStart, ctrl1Nmi]
  cases p.ctrl1.getLsbD 7 <;> rfl

/-- Settles O43: the offset and the scanline leave one row of the table to act. -/
theorem tickResult : Obligations.TickResult := by
  intro s hrun sl off bge spe guarded renders became
  have hguard : guarded ↔ scrollGuard s sl = true := by
    simp only [guarded, scrollGuard]
    cases s.params.guard <;> simp [bge, spe, ctrl2Bge, ctrl2Spe]
  have hbecame : ∀ t : State, tickActions sl off s = t → became t.ppu := by
    intro t ht
    simp only [became]
    rw [exec_tick_running hrun, tickEffect_ppu ht]
  rw [hguard]
  refine ⟨fun h => hbecame (render sl s) ?_,
    fun ho hg => hbecame (s.setPpu { s.ppu with v := incY s.ppu.v }) ?_,
    fun ho hg => hbecame (s.setPpu { s.ppu with v := reloadHorizontal s.ppu.v s.ppu.t }) ?_,
    fun hs h1 h2 hg => hbecame (s.setPpu { s.ppu with v := reloadVertical s.ppu.v s.ppu.t }) ?_,
    fun hs ho => ?_,
    fun hs ho => hbecame (s.setPpu (vblankEnd s.ppu)) ?_,
    fun h1 h2 h3 h4 h5 => hbecame s (tickActions_idle h1 h2 h3 h4 h5)⟩
  · exact tickActions_render h
  · rw [ho, tickActions_at_256, rowIncY, if_pos ⟨rfl, hg⟩]
  · rw [ho, tickActions_at_257, rowHorizontal, if_pos ⟨rfl, hg⟩]
  · rw [tickActions_vertical sl s ⟨h1, h2⟩, rowVertical, if_pos ⟨hs, h1, h2, hg⟩]
  · refine vblankStart_eq s.ppu ▸ hbecame (s.setPpu (vblankStart s.ppu)) ?_
    rw [ho, tickActions_at_0, rowVblankStart, if_pos ⟨hs, rfl⟩, rowVblankEnd,
      if_neg (by rw [hs]; decide)]
  · rw [ho, tickActions_at_0, rowVblankStart, if_neg (by rw [hs]; decide), rowVblankEnd,
      if_pos ⟨hs, rfl⟩]

end Sys2Proof.Machine

/-! ## Family other: the renderer -/

namespace Sys2Proof.Machine

/-! ### Which sprites are in range (43_renderer.md R221, R222) -/

/-- Settles O55: the range is `Y + 1` to `Y + 8`. -/
theorem spriteRangeRule : Obligations.SpriteRangeRule := by
  intro sl y
  have hiff : inRange sl y = true ↔ y.toNat + 1 ≤ sl ∧ sl ≤ y.toNat + 8 := by
    simp [inRange]
  refine ⟨by rw [hiff]; omega, ?_, fun hy hsl => ?_⟩
  · simp [inRange]
  · rw [Bool.eq_false_iff, Ne, hiff]
    omega

/-- Entry `i` is in range of the scanline. -/
def entryInRange (s : State) (sl i : Nat) : Bool := inRange sl (oamEntry s.oam i).y

/-- Of the elements from `lo` on, the ones after `lo` and `lo` itself. -/
theorem length_filter_from (p : Nat → Bool) (lo : Nat) : ∀ n,
    ((List.range n).filter (fun j => decide (lo ≤ j) && p j)).length
      = ((List.range n).filter (fun j => decide (lo + 1 ≤ j) && p j)).length
        + if lo < n ∧ p lo = true then 1 else 0
  | 0 => rfl
  | n + 1 => by
    rw [List.range_succ, List.filter_append, List.filter_append, List.length_append,
      List.length_append, length_filter_from p lo n]
    obtain h | rfl | h := Nat.lt_trichotomy lo n
    · have hlo : lo ≤ n := by omega
      have hlo' : lo < n + 1 := by omega
      have hlo'' : lo + 1 ≤ n := by omega
      simp only [List.filter_cons, List.filter_nil, hlo, hlo', hlo'', h, decide_true, Bool.true_and]
      omega
    · cases hp : p lo <;> simp [hp]
    · simp [show ¬ lo ≤ n by omega, show ¬ lo < n by omega, show ¬ lo < n + 1 by omega]

/-- The count from an entry on, by that entry (R222). -/
theorem inRangeFrom_eq (s : State) (sl : Nat) {i : Nat} (hi : i < 64) :
    inRangeFrom s sl i = inRangeFrom s sl (i + 1) + if entryInRange s sl i = true then 1 else 0 := by
  have h := length_filter_from (entryInRange s sl) i 64
  simp only [hi, true_and] at h
  exact h

/-- The count from a lower entry on is no smaller. -/
theorem inRangeFrom_anti (s : State) (sl : Nat) {i j : Nat} (h : i ≤ j) :
    inRangeFrom s sl j ≤ inRangeFrom s sl i := by
  simp only [inRangeFrom, ← List.countP_eq_length_filter]
  refine List.countP_mono_left (fun k _ hk => ?_)
  simp only [Bool.and_eq_true, decide_eq_true_eq] at hk ⊢
  exact ⟨by omega, hk.2⟩

theorem inRangeFrom_end (s : State) (sl : Nat) : inRangeFrom s sl 64 = 0 := by
  rw [inRangeFrom, List.length_eq_zero_iff, List.filter_eq_nil_iff]
  intro k hk
  rw [List.mem_range] at hk
  simp [show ¬ 64 ≤ k by omega]

/-! ### One entry of the sprite pass (R220) -/

/-- The state of the loop before entry `i - 1`: the count drawn is that of the entries above, within
the cap, and the row has the background's marks. -/
structure ScanAt (s : State) (sl i : Nat) (acc : SpriteScan) : Prop where
  drawn : acc.drawn = inRangeFrom s sl i
  cap : acc.drawn ≤ 8
  marks : acc.row.map Pixel.bgOpaque = (List.range 256).map (fun px => (bgPixelAt s px).bgOpaque)

/-- Entry `i` drawn on the row. -/
def scanDrawn (s : State) (sl i : Nat) (acc : SpriteScan) : SpriteScan :=
  drawSprite s sl i (oamEntry s.oam i) { acc with drawn := acc.drawn + 1 }

/-- What the loop does at an entry: it stops at the cap, draws the entry, or passes over it. -/
theorem spriteScan_succ_cases {s : State} {sl i : Nat} {acc : SpriteScan} (hi : i < 64)
    (h : ScanAt s sl (i + 1) acc) :
    (spriteScan s sl (i + 1) acc = { acc with overflow := true } ∧ 8 < inRangeFrom s sl i
      ∧ ∀ j ≤ i, spriteDrawn s sl j = false)
    ∨ (spriteScan s sl (i + 1) acc = spriteScan s sl i (scanDrawn s sl i acc)
      ∧ spriteDrawn s sl i = true ∧ ScanAt s sl i (scanDrawn s sl i acc))
    ∨ (spriteScan s sl (i + 1) acc = spriteScan s sl i acc ∧ spriteDrawn s sl i = false
      ∧ ScanAt s sl i acc) := by
  obtain ⟨hdrawn, hcap, hmarks⟩ := h
  have hcount := inRangeFrom_eq s sl hi
  cases hr : entryInRange s sl i with
  | false =>
    rw [hr, if_neg (by decide), Nat.add_zero] at hcount
    have hr' : inRange sl (oamEntry s.oam i).y = false := hr
    refine .inr (.inr ⟨?_, ?_, hdrawn.trans hcount.symm, hcap, hmarks⟩)
    · rw [spriteScan, if_neg (by rw [hr']; decide)]
    · rw [spriteDrawn, hr', Bool.false_and]
  | true =>
    rw [hr, if_pos rfl] at hcount
    have hr' : inRange sl (oamEntry s.oam i).y = true := hr
    by_cases h8 : acc.drawn = 8
    · refine .inl ⟨?_, by omega, fun j hj => ?_⟩
      · rw [spriteScan, if_pos hr', if_pos h8]
      · have hanti := inRangeFrom_anti s sl (show j + 1 ≤ i + 1 by omega)
        rw [spriteDrawn, Config.spriteCap, decide_eq_false (by omega), Bool.and_false]
    · obtain ⟨hrow, hd, -⟩ := drawSprite_keeps s sl i (oamEntry s.oam i)
        { acc with drawn := acc.drawn + 1 }
      have hd' : (scanDrawn s sl i acc).drawn = acc.drawn + 1 := hd
      refine .inr (.inl ⟨?_, ?_, ?_, ?_, hrow.trans hmarks⟩)
      · rw [spriteScan, if_pos hr', if_neg h8]
        rfl
      · rw [spriteDrawn, hr', Bool.true_and, Config.spriteCap]
        exact decide_eq_true (by omega)
      · rw [hd', hcount, hdrawn]
      · omega

/-! ### The loop in closed form -/

/-- The overflow flag after the loop: set when more than 8 entries are in range (R222). -/
theorem spriteScan_overflow (s : State) (sl : Nat) : ∀ (n : Nat) (acc : SpriteScan), n ≤ 64 →
    ScanAt s sl n acc →
    (spriteScan s sl n acc).overflow = (acc.overflow || decide (8 < inRangeFrom s sl 0))
  | 0, acc, _, h => by
    have h8 : ¬ 8 < inRangeFrom s sl 0 := by rw [← h.drawn]; exact Nat.not_lt.2 h.cap
    rw [spriteScan, decide_eq_false h8, Bool.or_false]
  | i + 1, acc, hi, h => by
    obtain ⟨e, h8, -⟩ | ⟨e, -, h'⟩ | ⟨e, -, h'⟩ := spriteScan_succ_cases (by omega) h
    · have hall := inRangeFrom_anti s sl (Nat.zero_le i)
      rw [e, decide_eq_true (by omega), Bool.or_true]
    · obtain ⟨-, -, hov⟩ := drawSprite_keeps s sl i (oamEntry s.oam i)
        { acc with drawn := acc.drawn + 1 }
      rw [e, spriteScan_overflow s sl i _ (by omega) h', scanDrawn, hov]
    · rw [e, spriteScan_overflow s sl i _ (by omega) h']

/-- The mark of a column of a row with the background's marks. -/
theorem ScanAt.mark {s : State} {sl i : Nat} {acc : SpriteScan} (h : ScanAt s sl i acc) {px : Nat}
    {u : Pixel} (hu : acc.row[px]? = some u) : u.bgOpaque = (bgPixelAt s px).bgOpaque := by
  have hm := congrArg (·[px]?) h.marks
  simp only [List.getElem?_map, hu, Option.map_some] at hm
  by_cases hpx : px < 256
  · simpa [List.getElem?_range hpx] using hm
  · simp [List.getElem?_eq_none (l := List.range 256) (by simpa using hpx)] at hm

/-- The colour entry `i` puts on the finished row at column `px`, if it is drawn and writes there. -/
def drawnColor (s : State) (sl px i : Nat) : Option Byte :=
  if spriteDrawn s sl i then spriteColorAt s sl i px else none

/-- A pixel under a colour that may be written on it. -/
def Pixel.paint (u : Pixel) (c : Option Byte) : Pixel := { u with color := c.getD u.color }

/-- The eight columns of a sprite. -/
theorem mem_columns_iff (k : Nat) : k ∈ ([0, 1, 2, 3, 4, 5, 6, 7] : List Nat) ↔ k ≤ 7 := by
  simp only [List.mem_cons, List.not_mem_nil, or_false]
  omega

theorem spriteOpaqueAt_iff (s : State) (sl i px : Nat) : spriteOpaqueAt s sl i px = true ↔
    (oamEntry s.oam i).x.toNat ≤ px ∧ px ≤ (oamEntry s.oam i).x.toNat + 7
    ∧ spriteColorIndex s sl (oamEntry s.oam i) (px - (oamEntry s.oam i).x.toNat) ≠ 0#2 := by
  simp [spriteOpaqueAt, and_assoc]

/-- A sprite's eight columns paint its colour at each column of the row (R226 to R228). -/
theorem spritePixel_eq_paint {s : State} {sl i px : Nat} {u : Pixel}
    (hu : u.bgOpaque = (bgPixelAt s px).bgOpaque) :
    spritePixel s sl (oamEntry s.oam i) [0, 1, 2, 3, 4, 5, 6, 7] px u
      = u.paint (spriteColorAt s sl i px) := by
  have hcond : (spriteOpaqueAt s sl i px
        && !(attrBehind (oamEntry s.oam i).attr && (bgPixelAt s px).bgOpaque)) = true
      ↔ (oamEntry s.oam i).x.toNat ≤ px
        ∧ px - (oamEntry s.oam i).x.toNat ∈ ([0, 1, 2, 3, 4, 5, 6, 7] : List Nat)
        ∧ spriteColorIndex s sl (oamEntry s.oam i) (px - (oamEntry s.oam i).x.toNat) ≠ 0#2
        ∧ ¬ (attrBehind (oamEntry s.oam i).attr = true ∧ u.bgOpaque = true) := by
    rw [mem_columns_iff, Bool.and_eq_true, spriteOpaqueAt_iff, Bool.not_eq_true', ← Bool.not_eq_true,
      Bool.and_eq_true, hu, Nat.sub_le_iff_le_add', and_assoc, and_assoc]
  rw [spritePixel, Pixel.paint, spriteColorAt]
  by_cases h : (spriteOpaqueAt s sl i px
      && !(attrBehind (oamEntry s.oam i).attr && (bgPixelAt s px).bgOpaque)) = true
  · rw [if_pos h, if_pos (hcond.1 h)]
    rfl
  · rw [if_neg h, if_neg (fun h' => h (hcond.2 h'))]
    rfl

theorem map_paint_none (o : Option Pixel) : o.map (·.paint none) = o := by
  cases o <;> rfl

/-- A colour is painted over by a later one. -/
theorem Pixel.paint_paint (u : Pixel) (c c' : Option Byte) :
    (u.paint c).paint c' = u.paint (c'.or c) := by
  cases c' <;> rfl

/-- The row after the loop: each column painted by the lowest drawn entry that writes there (R220,
R223, R228). -/
theorem spriteScan_row (s : State) (sl px : Nat) : ∀ (n : Nat) (acc : SpriteScan), n ≤ 64 →
    ScanAt s sl n acc →
    (spriteScan s sl n acc).row[px]?
      = (acc.row[px]?).map (·.paint ((List.range n).findSome? (drawnColor s sl px)))
  | 0, acc, _, h => by
    rw [spriteScan]
    exact (map_paint_none _).symm
  | i + 1, acc, hi, h => by
    rw [List.range_succ, List.findSome?_append, List.findSome?_singleton]
    obtain ⟨e, -, hnone⟩ | ⟨e, hd, h'⟩ | ⟨e, hd, h'⟩ := spriteScan_succ_cases (by omega) h
    · have hall : (List.range i).findSome? (drawnColor s sl px) = none := by
        rw [List.findSome?_eq_none_iff]
        intro j hj
        rw [drawnColor, hnone j (Nat.le_of_lt (List.mem_range.1 hj)), if_neg (by decide)]
      rw [e, hall, drawnColor, hnone i (Nat.le_refl i), if_neg (by decide)]
      exact (map_paint_none _).symm
    · have hrow : (scanDrawn s sl i acc).row[px]? = (acc.row[px]?).map
          (spritePixel s sl (oamEntry s.oam i) [0, 1, 2, 3, 4, 5, 6, 7] px) :=
        foldl_drawSpritePixel_row s sl i _ px _ _
      rw [e, spriteScan_row s sl px i _ (by omega) h', hrow, drawnColor, if_pos hd]
      cases hu : acc.row[px]? with
      | none => rfl
      | some u =>
        simp only [Option.map_some]
        rw [spritePixel_eq_paint (h.mark hu), Pixel.paint_paint]
    · rw [e, spriteScan_row s sl px i _ (by omega) h', drawnColor, hd, if_neg (by decide),
        Option.or_none]

/-- Some column of sprite 0 hits the background (R229). -/
theorem columns_any_eq {s : State} {sl i : Nat} {acc : SpriteScan} (h : ScanAt s sl i acc) :
    ([0, 1, 2, 3, 4, 5, 6, 7] : List Nat).any (fun k =>
      decide ((oamEntry s.oam 0).x.toNat + k ≤ 254)
        && decide (spriteColorIndex s sl (oamEntry s.oam 0) k ≠ 0#2)
        && ((acc.row.map Pixel.bgOpaque)[(oamEntry s.oam 0).x.toNat + k]?).getD false)
      = (List.range 255).any (fun px => spriteOpaqueAt s sl 0 px && (bgPixelAt s px).bgOpaque) := by
  have hmark : ∀ px, px ≤ 254 →
      ((acc.row.map Pixel.bgOpaque)[px]?).getD false = (bgPixelAt s px).bgOpaque := by
    intro px hpx
    rw [h.marks, List.getElem?_map, List.getElem?_range (by omega)]
    rfl
  rw [Bool.eq_iff_iff]
  simp only [List.any_eq_true, Bool.and_eq_true, decide_eq_true_eq, mem_columns_iff,
    List.mem_range, spriteOpaqueAt_iff]
  constructor
  · rintro ⟨k, hk, ⟨hpx, hci⟩, hbg⟩
    refine ⟨(oamEntry s.oam 0).x.toNat + k, by omega, ⟨by omega, by omega, ?_⟩, ?_⟩
    · rwa [Nat.add_sub_cancel_left]
    · rwa [hmark _ hpx] at hbg
  · rintro ⟨px, hpx, ⟨h1, h2, hci⟩, hbg⟩
    refine ⟨px - (oamEntry s.oam 0).x.toNat, by omega, ⟨by omega, hci⟩, ?_⟩
    rw [Nat.add_sub_cancel' h1, hmark _ (by omega)]
    exact hbg

/-- The hit flag after an entry is drawn: entry 0 alone can set it. -/
theorem scanDrawn_s0hit {s : State} {sl i : Nat} {acc : SpriteScan}
    (hd : spriteDrawn s sl i = true) (h : ScanAt s sl (i + 1) acc) :
    (scanDrawn s sl i acc).s0hit = (acc.s0hit || (decide (i = 0) && spriteZeroHits s sl)) := by
  have hcols := foldl_drawSpritePixel_s0hit s sl i (oamEntry s.oam i) [0, 1, 2, 3, 4, 5, 6, 7]
    { acc with drawn := acc.drawn + 1 }
  by_cases hi : i = 0
  · subst hi
    rw [scanDrawn, drawSprite, hcols, spriteZeroHits, hd, Bool.true_and, ← columns_any_eq h]
  · rw [scanDrawn, drawSprite, hcols, decide_eq_false hi, Bool.false_and, Bool.false_and]

/-- The hit flag after the loop (R229): it reaches entry 0 when there is one. -/
theorem spriteScan_s0hit (s : State) (sl : Nat) : ∀ (n : Nat) (acc : SpriteScan), n ≤ 64 →
    ScanAt s sl n acc →
    (spriteScan s sl n acc).s0hit = (acc.s0hit || (decide (0 < n) && spriteZeroHits s sl))
  | 0, acc, _, _ => by rw [spriteScan]; simp
  | i + 1, acc, hi, h => by
    have hzero : spriteDrawn s sl 0 = false → spriteZeroHits s sl = false := fun h0 => by
      rw [spriteZeroHits, h0, Bool.false_and]
    have hpos : decide (0 < i + 1) = (decide (0 < i) || decide (i = 0)) := by
      cases i <;> rfl
    rw [hpos]
    obtain ⟨e, -, hnone⟩ | ⟨e, hd, h'⟩ | ⟨e, hd, h'⟩ := spriteScan_succ_cases (by omega) h
    · rw [e, hzero (hnone 0 (Nat.zero_le i)), Bool.and_false, Bool.or_false]
    · rw [e, spriteScan_s0hit s sl i _ (by omega) h', scanDrawn_s0hit hd h]
      cases decide (0 < i) <;> cases decide (i = 0) <;> simp
    · rw [e, spriteScan_s0hit s sl i _ (by omega) h']
      cases i with
      | zero => rw [hzero hd, Bool.and_false, Bool.and_false]
      | succ i => rfl

/-! ### The render action (R210, R230) -/

/-- The whole loop starts with nothing drawn on the background's row. -/
theorem scanAt_start (s : State) (sl : Nat) (ov hit : Bool) :
    ScanAt s sl 64
      { drawn := 0, row := (List.range 256).map (bgPixelAt s), overflow := ov, s0hit := hit } :=
  ⟨(inRangeFrom_end s sl).symm, Nat.zero_le 8, by rw [List.map_map]; rfl⟩

/-- The sprite pass over the background's row: the flags and the colours it leaves. -/
theorem spritePass_eq (s : State) (sl : Nat) :
    (spritePass s sl ((List.range 256).map (bgPixelAt s))).overflow
      = (s.ppu.overflow || decide (8 < inRangeFrom s sl 0))
    ∧ (spritePass s sl ((List.range 256).map (bgPixelAt s))).s0hit
      = (s.ppu.s0hit || spriteZeroHits s sl)
    ∧ ∀ px < 256, ((spritePass s sl ((List.range 256).map (bgPixelAt s))).row[px]?).map Pixel.color
      = some (composedAt s sl px) := by
  have hstart := scanAt_start s sl s.ppu.overflow s.ppu.s0hit
  refine ⟨spriteScan_overflow s sl 64 _ (Nat.le_refl _) hstart, ?_, fun px hpx => ?_⟩
  · rw [spritePass, Config.oamEntries, spriteScan_s0hit s sl 64 _ (Nat.le_refl _) hstart]
    rfl
  · rw [spritePass, Config.oamEntries, spriteScan_row s sl px 64 _ (Nat.le_refl _) hstart,
      List.getElem?_map, List.getElem?_range hpx]
    rfl

theorem spritePass_length (s : State) (sl : Nat) (row : List Pixel) :
    (spritePass s sl row).row.length = row.length := by
  have h := congrArg List.length (spriteScan_keeps s sl 64
    { drawn := 0, row := row, overflow := s.ppu.overflow, s0hit := s.ppu.s0hit })
  rwa [List.length_map, List.length_map] at h

/-- The events of a row of 256 pixels, by its colours (R230). -/
theorem emitRow_eq {sl : Nat} {row : List Pixel} {color : Nat → Byte} (hlen : row.length = 256)
    (hcolor : ∀ px < 256, (row[px]?).map Pixel.color = some (color px)) :
    emitRow sl row = .preRender sl
      :: (List.range 256).map (fun px => .setPixel px sl (color px)) ++ [.postRender sl] := by
  rw [emitRow, rowEvents_eq, hlen]
  refine congrArg (fun es => Event.preRender sl :: es ++ [Event.postRender sl])
    (List.map_congr_left (fun px hpx => ?_))
  have h := hcolor px (List.mem_range.1 hpx)
  rw [Option.map_eq_some_iff] at h
  obtain ⟨u, hu, hc⟩ := h
  rw [hu, Nat.zero_add, ← hc]
  rfl

/-- The coarse-X steps of a background pass: 32, and one more when fine X is not 0 (R211). -/
theorem tileCount_eq (x : BitVec 3) : (x.toNat + 263) / 8 = if x = 0#3 then 32 else 33 := by
  revert x; decide

theorem bge_of_rendersNow {s : State} (h : rendersNow s) : ctrl2Bge s.ppu.ctrl2 = true := by
  obtain ⟨-, -, -, hb⟩ := h
  exact hb

/-- A render tick runs the render action, and the counter moves by one. -/
theorem exec_tick_render {s : State} (hrun : s.Running) (h : rendersNow s) :
    exec .tick s = .next { s with
      ppu := { (render (tickScanline s.ppu.cyc) s).ppu with cyc := s.ppu.cyc + 1 }
      result := none } := by
  rw [exec_tick_running hrun, tickEffect_ppu (tickActions_render h)]

/-- The PPU after a render action with the background enabled. -/
theorem render_ppu {s : State} (hb : ctrl2Bge s.ppu.ctrl2 = true) (sl : Nat) :
    (render sl s).ppu = { s.ppu with
      v := incCoarseX^[if s.ppu.x = 0#3 then 32 else 33] s.ppu.v
      overflow := (renderSprites s sl ((List.range 256).map (bgPixelAt s))).overflow
      s0hit := (renderSprites s sl ((List.range 256).map (bgPixelAt s))).s0hit
      events := s.ppu.events
        ++ emitRow sl (renderSprites s sl ((List.range 256).map (bgPixelAt s))).row } := by
  rw [← tileCount_eq, render, renderBackground_eq s hb]
  rfl

theorem renderSprites_off {s : State} (h : ctrl2Spe s.ppu.ctrl2 = false) (sl : Nat)
    (row : List Pixel) : renderSprites s sl row
      = { drawn := 0, row := row, overflow := s.ppu.overflow, s0hit := s.ppu.s0hit } := by
  rw [renderSprites, if_neg (by rw [h]; decide)]

theorem renderSprites_on {s : State} (h : ctrl2Spe s.ppu.ctrl2 = true) (sl : Nat)
    (row : List Pixel) : renderSprites s sl row = spritePass s sl row := if_pos h

/-- Settles O51: with sprites off the emitted row is the background's. -/
theorem backgroundScanlineResult : Obligations.BackgroundScanlineResult := by
  intro s hrun h hspe sl
  rw [exec_tick_render hrun h, render_ppu (bge_of_rendersNow h), renderSprites_off hspe,
    emitRow_eq (color := fun px => (bgPixelAt s px).color) (by simp)
      (fun px hpx => by rw [List.getElem?_map, List.getElem?_range hpx]; rfl)]

/-- Settles O52: with sprites on the emitted row is the sprite pass's. -/
theorem composedScanlineResult : Obligations.ComposedScanlineResult := by
  intro s hrun h hspe sl
  refine ⟨_, exec_tick_render hrun h, ?_⟩
  obtain ⟨-, -, hcolor⟩ := spritePass_eq s sl
  have hemit := emitRow_eq (sl := sl) (color := composedAt s sl)
    (row := (renderSprites s sl ((List.range 256).map (bgPixelAt s))).row)
    (by rw [renderSprites_on hspe, spritePass_length]; simp)
    (by rw [renderSprites_on hspe]; exact hcolor)
  rw [render_ppu (bge_of_rendersNow h), hemit]

/-- Settles O53: the flag after the sprite pass. -/
theorem spriteOverflowRule : Obligations.SpriteOverflowRule := by
  intro s hrun h hspe sl
  refine ⟨_, exec_tick_render hrun h, ?_⟩
  obtain ⟨hover, -, -⟩ := spritePass_eq s sl
  rwa [render_ppu (bge_of_rendersNow h), renderSprites_on hspe]

/-- Settles O54: the hit flag after the sprite pass. -/
theorem spriteZeroHitRule : Obligations.SpriteZeroHitRule := by
  intro s hrun h hspe sl
  refine ⟨_, exec_tick_render hrun h, ?_⟩
  obtain ⟨-, hhit, -⟩ := spritePass_eq s sl
  rwa [render_ppu (bge_of_rendersNow h), renderSprites_on hspe]

end Sys2Proof.Machine

/-! ## Family other: the writers of the flags, the counter and the trace -/

namespace Sys2Proof.Machine

/-- What a tick makes of the PPU: it renders, moves `v`, or starts or ends vblank; and the counter
moves by one (42_timing.md R181, R182). -/
theorem tickEffect_cases (s : State) :
    (rendersNow s ∧ (tickEffect s).ppu
      = { (render (tickScanline s.ppu.cyc) s).ppu with cyc := s.ppu.cyc + 1 })
    ∨ (∃ v, (tickEffect s).ppu = { s.ppu with v := v, cyc := s.ppu.cyc + 1 })
    ∨ (tickScanline s.ppu.cyc = 241 ∧ tickOffset s.ppu.cyc = 0
      ∧ (tickEffect s).ppu = { vblankStart s.ppu with cyc := s.ppu.cyc + 1 })
    ∨ (tickScanline s.ppu.cyc = 261 ∧ tickOffset s.ppu.cyc = 0
      ∧ (tickEffect s).ppu = { vblankEnd s.ppu with cyc := s.ppu.cyc + 1 }) := by
  obtain ⟨_, e⟩ | ⟨_, e⟩ | ⟨_, e⟩ | ⟨_, _, e⟩ | ⟨h0, e⟩ | ⟨_, _, _, _, _, e⟩ :=
    tickActions_cases (tickScanline s.ppu.cyc) (tickOffset s.ppu.cyc) s <;> rw [tickEffect_ppu e]
  · rw [rowRender]
    split_ifs with hr
    · exact .inl ⟨hr, rfl⟩
    · exact .inr (.inl ⟨_, rfl⟩)
  · rw [rowIncY]
    split_ifs <;> exact .inr (.inl ⟨_, rfl⟩)
  · rw [rowHorizontal]
    split_ifs <;> exact .inr (.inl ⟨_, rfl⟩)
  · rw [rowVertical]
    split_ifs <;> exact .inr (.inl ⟨_, rfl⟩)
  · by_cases hs : tickScanline s.ppu.cyc = 241
    · rw [rowVblankStart, if_pos ⟨hs, h0⟩, rowVblankEnd,
        if_neg (fun h => absurd (hs.symm.trans h.1) (by decide))]
      exact .inr (.inr (.inl ⟨hs, h0, rfl⟩))
    · rw [rowVblankStart, if_neg (fun h => hs h.1), rowVblankEnd]
      split_ifs with he
      · exact .inr (.inr (.inr ⟨he.1, h0, rfl⟩))
      · exact .inr (.inl ⟨_, rfl⟩)
  · exact .inr (.inl ⟨_, rfl⟩)

/-- Of the flags, the counter, the NMI output and the trace, only a status read, a tick and NMI_ACK
write any. -/
theorem Effect.status {i : Instr} {s t : State} (h : Effect s i t) :
    KeepsStatus s.ppu t.ppu ∨ (i = .ppuRdStatus ∧ t.ppu = afterStatusRead s.ppu)
    ∨ (i = .tick ∧ t.ppu = (tickEffect s).ppu) ∨ (i = .nmiAck ∧ t.ppu = nmiCleared s.ppu) := by
  have same : KeepsStatus s.ppu s.ppu := ⟨rfl, rfl, rfl, rfl, rfl, rfl⟩
  cases h with
  | register i p hport hr hp => exact .inl hp
  | statusRead => exact .inr (.inl ⟨rfl, rfl⟩)
  | oamData | vramData => exact .inl ⟨rfl, rfl, rfl, rfl, rfl, rfl⟩
  | sram a d => rw [sramWrite_frame]; exact .inl same
  | map i a d => rw [mapperWrite_frame]; exact .inl same
  | bus i l d => rw [writeLoc_frame]; exact .inl same
  | tick => exact .inr (.inr (.inl ⟨rfl, rfl⟩))
  | nmiAck => exact .inr (.inr (.inr ⟨rfl, rfl⟩))
  | halt | quiet => exact .inl same

/-- Everything a transaction in any block can do to the status. -/
theorem exec_status {i : Instr} {s t : State} (h : exec i s = .next t) :
    KeepsStatus s.ppu t.ppu ∨ (i = .ppuRdStatus ∧ t.ppu = afterStatusRead s.ppu)
    ∨ (i = .tick ∧ t.ppu = (tickEffect s).ppu) ∨ (i = .nmiAck ∧ t.ppu = nmiCleared s.ppu) := by
  obtain ⟨-, rfl⟩ | ⟨-, u, r, he, rfl⟩ := exec_cases h
  · exact .inl ⟨rfl, rfl, rfl, rfl, rfl, rfl⟩
  · exact he.status

/-- A render action leaves the flags it does not own, and of its own sets some with sprites on and
clears none. -/
theorem render_flags {s : State} (hb : ctrl2Bge s.ppu.ctrl2 = true) (sl : Nat) :
    ∃ hit ovf : Bool,
      (render sl s).ppu.s0hit = (s.ppu.s0hit || ctrl2Spe s.ppu.ctrl2 && hit)
      ∧ (render sl s).ppu.overflow = (s.ppu.overflow || ctrl2Spe s.ppu.ctrl2 && ovf) := by
  refine ⟨spriteZeroHits s sl, decide (8 < inRangeFrom s sl 0), ?_⟩
  rw [render_ppu hb]
  cases hspe : ctrl2Spe s.ppu.ctrl2
  · rw [renderSprites_off hspe]
    simp
  · rw [renderSprites_on hspe]
    obtain ⟨hover, hhit, -⟩ := spritePass_eq s sl
    exact ⟨hhit, hover⟩

section
variable {a b : Bool} {p : Prop}

/-- A flag that is as before does not rise. -/
theorem no_rise (h : b = a) (ha : a = false) (hb : b = true) : p := by
  rw [h, ha] at hb
  cases hb

/-- A flag that is as before does not fall. -/
theorem no_fall (h : b = a) (ha : a = true) (hb : b = false) : p := by
  rw [h, ha] at hb
  cases hb

end

/-- A flag that a pass may set rises only with the pass enabled. -/
theorem enabled_of_rise {a b en x : Bool} (h : b = (a || en && x)) (ha : a = false)
    (hb : b = true) : en = true := by
  rw [h, ha, Bool.false_or, Bool.and_eq_true] at hb
  exact hb.1

/-- A flag that a pass may set does not fall. -/
theorem no_fall_of_or {a b x : Bool} {p : Prop} (h : b = (a || x)) (ha : a = true)
    (hb : b = false) : p := by
  rw [h, ha, Bool.true_or] at hb
  cases hb

/-- Settles O47: neither a register access nor NMI_ACK changes a flag; a status read clears vblank;
and a tick renders, moves `v`, or starts or ends vblank. -/
theorem statusFlagWriters : Obligations.StatusFlagWriters := by
  intro i s t h at'
  obtain hk | ⟨rfl, ht⟩ | ⟨rfl, ht⟩ | ⟨rfl, ht⟩ := exec_status h
  · exact ⟨no_rise hk.vblank, no_fall hk.vblank, no_rise hk.s0hit, no_fall hk.s0hit,
      no_rise hk.overflow, no_fall hk.overflow⟩
  · rw [ht]
    exact ⟨fun _ hb => (nomatch hb), fun _ _ => .inl rfl, no_rise rfl, no_fall rfl, no_rise rfl,
      no_fall rfl⟩
  · rw [ht]
    obtain ⟨hr, e⟩ | ⟨v, e⟩ | ⟨hs, ho, e⟩ | ⟨hs, ho, e⟩ := tickEffect_cases s <;> rw [e]
    · obtain ⟨hit, ovf, hhit, hovf⟩ := render_flags (bge_of_rendersNow hr) (tickScanline s.ppu.cyc)
      exact ⟨no_rise rfl, no_fall rfl, fun ha hb => ⟨rfl, hr, enabled_of_rise hhit ha hb⟩,
        no_fall_of_or hhit, fun ha hb => ⟨rfl, hr, enabled_of_rise hovf ha hb⟩,
        no_fall_of_or hovf⟩
    · exact ⟨no_rise rfl, no_fall rfl, no_rise rfl, no_fall rfl, no_rise rfl, no_fall rfl⟩
    · exact ⟨fun _ _ => ⟨rfl, hs, ho⟩, fun _ hb => (nomatch hb), no_rise rfl, no_fall rfl,
        no_rise rfl, no_fall rfl⟩
    · exact ⟨fun _ hb => (nomatch hb), fun _ _ => .inr ⟨rfl, hs, ho⟩, fun _ hb => (nomatch hb),
        fun _ _ => ⟨rfl, hs, ho⟩, fun _ hb => (nomatch hb), fun _ _ => ⟨rfl, hs, ho⟩⟩
  · rw [ht]
    exact ⟨no_rise rfl, no_fall rfl, no_rise rfl, no_fall rfl, no_rise rfl, no_fall rfl⟩

/-- Settles O48: of the writers of the status the vblank-start tick alone can set the NMI output, and
NMI_ACK alone clears it. -/
theorem nmiRaiseAndClear : Obligations.NmiRaiseAndClear := by
  intro i s t h
  obtain hk | ⟨rfl, ht⟩ | ⟨rfl, ht⟩ | ⟨rfl, ht⟩ := exec_status h
  · exact ⟨no_rise hk.nmi, no_fall hk.nmi⟩
  · rw [ht]
    exact ⟨no_rise rfl, no_fall rfl⟩
  · rw [ht]
    obtain ⟨-, e⟩ | ⟨v, e⟩ | ⟨hs, ho, e⟩ | ⟨-, -, e⟩ := tickEffect_cases s <;> rw [e]
    · exact ⟨no_rise rfl, no_fall rfl⟩
    · exact ⟨no_rise rfl, no_fall rfl⟩
    · have hnmi : (vblankStart s.ppu).nmi = (s.ppu.nmi || ctrl1Nmi s.ppu.ctrl1 && true) := by
        rw [Bool.and_true, Bool.or_comm]
        rfl
      exact ⟨fun ha hb => ⟨rfl, hs, ho, enabled_of_rise hnmi ha hb⟩, no_fall_of_or hnmi⟩
    · exact ⟨no_rise rfl, no_fall rfl⟩
  · rw [ht]
    exact ⟨fun _ hb => (nomatch hb), fun _ _ => rfl⟩

/-- A tick only adds to the trace. -/
theorem tickEffect_events (s : State) : ∃ more, (tickEffect s).ppu.events = s.ppu.events ++ more := by
  obtain ⟨-, e⟩ | ⟨v, e⟩ | ⟨-, -, e⟩ | ⟨-, -, e⟩ := tickEffect_cases s <;> rw [e]
  · exact ⟨_, rfl⟩
  · exact ⟨[], (List.append_nil _).symm⟩
  · exact ⟨_, rfl⟩
  · exact ⟨[], (List.append_nil _).symm⟩

/-- Settles O50: no other writer of the status touches the counter or the trace. -/
theorem counterAndTraceMoveOnlyByTick : Obligations.CounterAndTraceMoveOnlyByTick := by
  intro i s t h
  have kept : ∀ p : Ppu, p.events = s.ppu.events → ∃ more, p.events = s.ppu.events ++ more :=
    fun p hp => ⟨[], by rw [hp, List.append_nil]⟩
  refine ⟨fun hi => ?_, ?_, ?_⟩
  · obtain hk | ⟨rfl, ht⟩ | ⟨rfl, ht⟩ | ⟨rfl, ht⟩ := exec_status h
    · exact ⟨hk.cyc, hk.events⟩
    · rw [ht]; exact ⟨rfl, rfl⟩
    · exact absurd rfl hi
    · rw [ht]; exact ⟨rfl, rfl⟩
  · rintro rfl hrun
    rw [exec_tick_running hrun] at h
    cases h
    exact tickEffect_cyc s
  · obtain hk | ⟨rfl, ht⟩ | ⟨rfl, ht⟩ | ⟨rfl, ht⟩ := exec_status h
    · exact kept _ hk.events
    · rw [ht]; exact kept _ rfl
    · rw [ht]; exact tickEffect_events s
    · rw [ht]; exact kept _ rfl

end Sys2Proof.Machine

/-! ## Family other: the renderer in arithmetic -/

namespace Sys2Proof.Machine

/-! ### Fetch addresses, shifts and indexes as numbers (43_renderer.md R212 to R218, R224 to R227) -/

section
variable (v : VramAddr)

theorem toNat_vram16 : (v.setWidth 16).toNat = v.toNat := by
  have hv := v.isLt
  rw [BitVec.toNat_setWidth]
  omega

theorem toNat_ntAddr : (ntAddr v).toNat = 0x2000 + v.toNat % 0x1000 := by
  have h := toNat_nametableAddr (v.setWidth 16)
  rw [toNat_vram16] at h
  exact h

/-- The masked fields of `AtAddr` occupy bits of their own, so they add up (R213). -/
theorem toNat_atAddr : (atAddr v).toNat = 0x23C0 + 0x400 * (v.toNat / 0x400 % 4)
    + 8 * (v.toNat / 32 % 32 / 4) + v.toNat % 32 / 4 := by
  have hslot : (v.setWidth 16 &&& 0x0C00#16).toNat = 0x400 * (v.toNat / 0x400 % 4) := by
    have hbits : v.setWidth 16 &&& 0x0C00#16 = (v.extractLsb' 10 2).setWidth 16 <<< 10 := by
      ext i hi
      interval_cases i <;> simp
    rw [hbits, BitVec.toNat_shiftLeft, BitVec.toNat_setWidth, BitVec.extractLsb'_toNat,
      Nat.shiftLeft_eq, Nat.shiftRight_eq_div_pow]
    omega
  have hrow : ((v.setWidth 16 >>> 4) &&& 0x38#16).toNat = 8 * (v.toNat / 32 % 32 / 4) := by
    have hbits : (v.setWidth 16 >>> 4) &&& 0x38#16 = (v.extractLsb' 7 3).setWidth 16 <<< 3 := by
      ext i hi
      interval_cases i <;> simp
    rw [hbits, BitVec.toNat_shiftLeft, BitVec.toNat_setWidth, BitVec.extractLsb'_toNat,
      Nat.shiftLeft_eq, Nat.shiftRight_eq_div_pow]
    omega
  have hcol : ((v.setWidth 16 >>> 2) &&& 0x07#16).toNat = v.toNat % 32 / 4 := by
    rw [BitVec.toNat_and, BitVec.toNat_ushiftRight, toNat_vram16, Nat.shiftRight_eq_div_pow,
      show (0x07#16).toNat = 2 ^ 3 - 1 from rfl, Nat.and_two_pow_sub_one_eq_mod]
    omega
  have h1 : 0x23C0#16 &&& (v.setWidth 16 &&& 0x0C00#16) = 0#16 := by
    ext i hi
    interval_cases i <;> simp
  have h2 : (0x23C0#16 ||| (v.setWidth 16 &&& 0x0C00#16)) &&& ((v.setWidth 16 >>> 4) &&& 0x38#16)
      = 0#16 := by
    ext i hi
    interval_cases i <;> simp
  have h3 : (0x23C0#16 ||| (v.setWidth 16 &&& 0x0C00#16) ||| ((v.setWidth 16 >>> 4) &&& 0x38#16))
      &&& ((v.setWidth 16 >>> 2) &&& 0x07#16) = 0#16 := by
    ext i hi
    interval_cases i <;> simp
  rw [atAddr, ← BitVec.add_eq_or_of_and_eq_zero _ _ h3, ← BitVec.add_eq_or_of_and_eq_zero _ _ h2,
    ← BitVec.add_eq_or_of_and_eq_zero _ _ h1]
  rw [BitVec.toNat_add, BitVec.toNat_add, BitVec.toNat_add, hslot, hrow, hcol, BitVec.toNat_ofNat]
  omega

theorem atShift_eq :
    atShift v = 4 * (v.toNat / 32 % 32 / 2 % 2) + 2 * (v.toNat % 32 / 2 % 2) := by
  have hy : ∀ y : BitVec 5, ((y &&& 2#5) <<< 1).toNat = (y.toNat / 2 % 2) <<< 2 := by decide
  have hx : ∀ x : BitVec 5, (x &&& 2#5).toNat = 2 * (x.toNat / 2 % 2) := by decide
  rw [atShift, BitVec.toNat_or, hy, hx, shift_or_eq_add 2 _ _ (by omega), toNat_coarseX,
    toNat_coarseY]
  omega

end

theorem toNat_patAddr (table : Bool) (tile : Byte) (row : BitVec 3) :
    (patAddr table tile row).toNat
      = (if table then 0x1000 else 0) + 16 * tile.toNat + row.toNat := by
  have htile := tile.isLt
  have hrow := row.isLt
  cases table <;> simp [patAddr] <;> omega

/-- Bit `7 - c` of each plane (R215). -/
theorem toNat_colorIndex (lo hi : Byte) (c : Nat) : (colorIndex lo hi c).toNat
    = 2 * (hi.toNat / 2 ^ (7 - c) % 2) + lo.toNat / 2 ^ (7 - c) % 2 := by
  have hpair : ∀ a b : Bool,
      (BitVec.ofBool a ++ BitVec.ofBool b).toNat = 2 * a.toNat + b.toNat := by decide
  rw [colorIndex, hpair, toNat_getLsbD, toNat_getLsbD]

theorem toNat_bgColorAddr (pal ci : BitVec 2) : (bgColorAddr pal ci).toNat
    = if ci.toNat = 0 then 0x3F00 else 0x3F00 + 4 * pal.toNat + ci.toNat := by
  revert pal ci; decide

theorem toNat_spriteColorAddr (pal ci : BitVec 2) :
    (spriteColorAddr pal ci).toNat = 0x3F10 + 4 * pal.toNat + ci.toNat := by
  revert pal ci; decide

/-- The tile row of a sprite in range, counted from below under VFLIP (R224). -/
theorem toNat_spriteRow {sl : Nat} {e : Sprite} (h1 : e.y.toNat + 1 ≤ sl)
    (h2 : sl ≤ e.y.toNat + 8) : (spriteRow sl e).toNat
      = if e.attr.getLsbD 7 then 7 - (sl - (e.y.toNat + 1)) else sl - (e.y.toNat + 1) := by
  rw [spriteRow, attrVflip]
  cases e.attr.getLsbD 7 <;> simp <;> omega

/-- Settles O59: each address, shift and index as a number. -/
theorem rendererFetchFormulas : Obligations.RendererFetchFormulas :=
  ⟨fun v => ⟨toNat_ntAddr v, toNat_atAddr v, atShift_eq v⟩, toNat_patAddr,
    fun lo hi c _ => toNat_colorIndex lo hi c,
    fun pal ci => ⟨toNat_bgColorAddr pal ci, toNat_spriteColorAddr pal ci⟩,
    fun _ _ h1 h2 => toNat_spriteRow h1 h2⟩

/-! ### Pixels from the bytes they are fetched from -/

/-- The number of the byte of PPU space at a number. -/
def ppuByte (s : State) (n : Nat) : Nat := (ppuRead s (BitVec.ofNat 16 n)).toNat

/-- The colour index of column `c` of the pattern row whose plane 0 stands at a number. -/
def planeIndex (s : State) (plane c : Nat) : Nat :=
  2 * (ppuByte s (plane + 8) / 2 ^ (7 - c) % 2) + ppuByte s plane / 2 ^ (7 - c) % 2

theorem toNat_ppuRead (s : State) {a : Addr} {n : Nat} (h : a.toNat = n) :
    (ppuRead s a).toNat = ppuByte s n := by
  subst h
  rw [ppuByte, BitVec.ofNat_toNat, BitVec.setWidth_eq]

/-- The colour index from the two planes of a pattern row (R214, R215). -/
theorem toNat_colorIndex_patAddr (s : State) (table : Bool) (tile : Byte) (row : BitVec 3)
    (c : Nat) :
    (colorIndex (ppuRead s (patAddr table tile row)) (ppuRead s (patAddr table tile row + 8#16))
      c).toNat
      = planeIndex s ((if table then 0x1000 else 0) + 16 * tile.toNat + row.toNat) c := by
  have hlo := toNat_patAddr table tile row
  have htile := tile.isLt
  have hrow := row.isLt
  have hhi : (patAddr table tile row + 8#16).toNat
      = (if table then 0x1000 else 0) + 16 * tile.toNat + row.toNat + 8 := by
    rw [BitVec.toNat_add, hlo, BitVec.toNat_ofNat]
    split_ifs <;> omega
  rw [toNat_colorIndex, toNat_ppuRead s hlo, toNat_ppuRead s hhi, planeIndex]

theorem ne_zero_iff_toNat (ci : BitVec 2) : ci ≠ 0#2 ↔ ci.toNat ≠ 0 := by
  rw [Ne, ← BitVec.toNat_inj]
  rfl

/-- The background's two facts, in the numbers of the fetched bytes (R211 to R219). -/
theorem bgPixel_formula (s : State) (v : VramAddr) (c : Nat) :
    let tile := ppuByte s (0x2000 + v.toNat % 0x1000)
    let attr := ppuByte s (0x23C0 + 0x400 * (v.toNat / 0x400 % 4) + 8 * (v.toNat / 32 % 32 / 4)
      + v.toNat % 32 / 4)
    let pal := attr / 2 ^ (4 * (v.toNat / 32 % 32 / 2 % 2) + 2 * (v.toNat % 32 / 2 % 2)) % 4
    let ci := planeIndex s ((if s.ppu.ctrl1.getLsbD 4 then 0x1000 else 0) + 16 * tile
      + v.toNat / 0x1000) c
    (bgPixel s (bgTile s v) c).color.toNat
        = ppuByte s (if ci = 0 then 0x3F00 else 0x3F00 + 4 * pal + ci)
    ∧ (bgPixel s (bgTile s v) c).bgOpaque = decide (ci ≠ 0) := by
  intro tile attr pal ci
  have htile : (ppuRead s (ntAddr v)).toNat = tile := toNat_ppuRead s (toNat_ntAddr v)
  have hattr : (ppuRead s (atAddr v)).toNat = attr := toNat_ppuRead s (toNat_atAddr v)
  have hpal : (bgTile s v).pal.toNat = pal := by
    simp only [bgTile, BitVec.toNat_setWidth, BitVec.toNat_ushiftRight, hattr, atShift_eq,
      Nat.shiftRight_eq_div_pow]
    rfl
  have hci : (colorIndex (bgTile s v).lo (bgTile s v).hi c).toNat = ci := by
    have h := toNat_colorIndex_patAddr s (ctrl1Bgt s.ppu.ctrl1) (ppuRead s (ntAddr v)) (fineY v) c
    rw [htile, toNat_fineY] at h
    exact h
  constructor
  · exact toNat_ppuRead s (by rw [toNat_bgColorAddr, hpal, hci])
  · simp only [bgPixel, ne_zero_iff_toNat, hci]

/-- A sprite in range has the colour index of its tile row and column, after the flips (R224 to
R226). -/
theorem toNat_spriteColorIndex (s : State) {sl : Nat} {e : Sprite} (h1 : e.y.toNat + 1 ≤ sl)
    (h2 : sl ≤ e.y.toNat + 8) (k : Nat) :
    (spriteColorIndex s sl e k).toNat = planeIndex s
      ((if s.ppu.ctrl1.getLsbD 3 then 0x1000 else 0) + 16 * e.tile.toNat
        + if e.attr.getLsbD 7 then 7 - (sl - (e.y.toNat + 1)) else sl - (e.y.toNat + 1))
      (if e.attr.getLsbD 6 then 7 - k else k) := by
  have h := toNat_colorIndex_patAddr s (ctrl1Spt s.ppu.ctrl1) e.tile (spriteRow sl e)
    (if e.attr.getLsbD 6 then 7 - k else k)
  rw [toNat_spriteRow h1 h2] at h
  exact h

theorem toNat_attrSpal (a : Byte) : (attrSpal a).toNat = a.toNat % 4 := by
  simp [attrSpal]

/-- Settles O60: every pixel is made of bytes fetched at the addresses of the formulas above. -/
theorem renderedPixelFormulas : Obligations.RenderedPixelFormulas := by
  intro s byteAt index
  refine ⟨fun px => bgPixel_formula s _ _, ?_⟩
  intro sl i px y tile attr x row ci h1 h2
  have hci : (spriteColorIndex s sl (oamEntry s.oam i)
      (px - (oamEntry s.oam i).x.toNat)).toNat = ci :=
    toNat_spriteColorIndex s (e := oamEntry s.oam i) h1 h2 (px - x)
  have hopaque : spriteOpaqueAt s sl i px = true ↔ x ≤ px ∧ px ≤ x + 7 ∧ ci ≠ 0 := by
    rw [spriteOpaqueAt_iff, ne_zero_iff_toNat, hci]
    rfl
  refine ⟨by rw [Bool.eq_iff_iff, hopaque, decide_eq_true_iff], ?_⟩
  have hwrites : (spriteOpaqueAt s sl i px
        && !(attrBehind (oamEntry s.oam i).attr && (bgPixelAt s px).bgOpaque)) = true
      ↔ (x ≤ px ∧ px ≤ x + 7 ∧ ci ≠ 0)
        ∧ ¬ (attr.getLsbD 5 = true ∧ (bgPixelAt s px).bgOpaque = true) := by
    rw [Bool.and_eq_true, hopaque, Bool.not_eq_true', ← Bool.not_eq_true, Bool.and_eq_true]
    rfl
  by_cases h : (spriteOpaqueAt s sl i px
      && !(attrBehind (oamEntry s.oam i).attr && (bgPixelAt s px).bgOpaque)) = true
  · rw [if_pos (hwrites.1 h), spriteColorAt, if_pos h, Option.map_some]
    exact congrArg some (toNat_ppuRead s (by rw [toNat_spriteColorAddr, toNat_attrSpal, hci]; rfl))
  · rw [if_neg (fun h' => h (hwrites.2 h')), spriteColorAt, if_neg h, Option.map_none]

end Sys2Proof.Machine
